-- ==== Sys2Proof/Word.lean ====
section
/-!
DEFINITION. The words of the machine: 32-bit values (spec/00_scope.md R12), bytes of memory, and the 64-bit data
of the widest host access.
-/

namespace Sys2Proof

/-- `u32` of R12: a register, a pixel (R2) or a bus address (R10). -/
abbrev Word := BitVec 32

/-- One byte: a memory cell's content, or an 8-bit channel of a pixel (R9: `CHANNEL_BITS = 8`). -/
abbrev Byte := BitVec 8

/-- The data of a host bus access of at most eight bytes. -/
abbrev BusData := BitVec 64

end Sys2Proof
end

