-- ==== Sys2Proof/Syntax.lean ====
section
/-!
DEFINITION. The syntax: the six commands (R92), the CMD32 format (R90), the bus operations of the host, and the
assembler notation of R97 and R98.
-/

namespace Sys2Proof

/-- The commands of R92, one constructor for each row of spec/opcode_table.json. No command word holds an operand
field (R93), so no constructor has an argument. -/
inductive Instr where
  | nop
  | blitUnpremul
  | blitPremul
  | pixUnpremul
  | pixPremul
  | recipRead
deriving DecidableEq, Repr

/-- The fields of format CMD32 (R90): OP in bits 3:0, MBZ in bits 31:4. -/
structure CmdWord where
  op : BitVec 4
  mbz : BitVec 28
deriving DecidableEq, Repr

/-- Why a command word is reserved (R95), or too few bytes were given for one. -/
inductive DecodeError where
  /-- OP in 6..15 with MBZ = 0. -/
  | reservedOp
  /-- MBZ ≠ 0. -/
  | mbzNotZero
  /-- Fewer than the four bytes of a command word. -/
  | truncated
deriving DecidableEq, Repr

/-- The twelve registers of the window (R20). -/
inductive Reg where
  | config
  | ctrl
  | status
  | cmd
  | srcAddr
  | srcStride
  | dstAddr
  | dstStride
  | width
  | height
  | pixIn
  | pixOut
deriving DecidableEq, Repr

/-- The size of a host bus access: one, two, four or eight bytes. Only `word` is defined on the window (R21). -/
inductive AccessSize where
  | byte
  | half
  | word
  | dword
deriving DecidableEq, Repr

/-- What the world outside the block does, one atomic step each (R258): a bus access of a host at a bus address
(R250, R251 inside the window; system memory outside), a repeated read (POLL of R97), or the platform's reset (R300). -/
inductive HostOp where
  /-- Write the low bytes of `data` at `addr`. -/
  | write (addr : Word) (size : AccessSize) (data : BusData)
  /-- Read at `addr`. -/
  | read (addr : Word) (size : AccessSize)
  /-- Repeat a 32-bit read at `addr` until `(v and mask) = value`. -/
  | poll (addr mask value : Word)
  /-- Drive the reset input. -/
  | reset
deriving DecidableEq, Repr

/-- The statements and pseudo-instructions of the assembler notation (R97, R98). -/
inductive Stmt where
  | wr (reg : Reg) (imm : Word)
  | rd (reg : Reg)
  | poll (reg : Reg) (mask value : Word)
  | mw (addr imm : Word)
  | mr (addr : Word)
  | cmd (i : Instr)
  | wait
  | clrstat
  | clamp (on : Bool)
  | blitAndUnpremultiply (d ds s ss w h : Word)
  | blitAndPremultiply (d ds s ss w h : Word)
  | unpremulPixel (p : Word)
  | premulPixel (p : Word)
  | recip (a : Word)
deriving DecidableEq, Repr

end Sys2Proof
end

