-- ==== Sys2Proof/WellFormed.lean ====
section
/-!
DEFINITION. Which terms of the syntax are legal. A command has no operand, so every `Instr` is well-formed; the checks
are those of the CMD32 fields (R90, R95).
-/

namespace Sys2Proof

/-- MBZ "must be zero" (R90). -/
def CmdWord.mbzClear (c : CmdWord) : Bool := c.mbz == 0#28

/-- OP names a command: 0 to 5 (R92); 6..15 are reserved (R95). -/
def CmdWord.opAssigned (c : CmdWord) : Bool := decide (c.op.toNat < 6)

/-- A CMD32 word that is not reserved (R95). -/
def CmdWord.wellFormed (c : CmdWord) : Bool := c.mbzClear && c.opAssigned

/-- A command is well-formed: no command word holds an operand field (R93), so there is nothing to check. -/
def Instr.wellFormed : Instr → Bool := fun _ => true

end Sys2Proof
end

