-- ==== Sys2Proof/Decode.lean ====
section
/-!
DEFINITION. Decoding of command words (R91, R92, R95), total on any bytes, and the encoder. A command word is one
32-bit value (R90); as bytes it lies in the byte order of R62, the lowest address first.
-/

namespace Sys2Proof

/-- The 32-bit value of four bytes, the lowest address first (R62). -/
def wordOfBytes (b0 b1 b2 b3 : Byte) : Word := b3 ++ b2 ++ b1 ++ b0

/-- Byte `k` of a 32-bit value: bits `8k+7 : 8k` (R62). -/
def byteOfWord (v : Word) (k : Nat) : Byte := v.extractLsb' (8 * k) 8

/-- The four bytes of a 32-bit value, the lowest address first (R62). -/
def bytesOfWord (v : Word) : List Byte := [byteOfWord v 0, byteOfWord v 1, byteOfWord v 2, byteOfWord v 3]

/-- The opcode map of R92: the whole 32-bit word of each command (mask 0xFFFFFFFF, R91). -/
def opcodeMap : List (Word × Instr) :=
  [(0x00000000#32, .nop), (0x00000001#32, .blitUnpremul), (0x00000002#32, .blitPremul),
   (0x00000003#32, .pixUnpremul), (0x00000004#32, .pixPremul), (0x00000005#32, .recipRead)]

/-- The CMD32 fields of a word (R90). -/
def CmdWord.ofWord (w : Word) : CmdWord := { op := w.extractLsb' 0 4, mbz := w.extractLsb' 4 28 }

/-- The word of CMD32 fields (R90). -/
def CmdWord.toWord (c : CmdWord) : Word := c.mbz ++ c.op

/-- Decoding of a command word: the row of R92 whose word it is, else reserved, by name (R91, R95). -/
def decodeWord (w : Word) : Except DecodeError Instr :=
  match opcodeMap.find? (fun row => row.1 == w) with
  | some row => .ok row.2
  | none => if (CmdWord.ofWord w).mbzClear then .error .reservedOp else .error .mbzNotZero

/-- Decoding from bytes: one command word is four bytes (R90); the rest of the bytes is handed back. -/
def decode : List Byte → Except DecodeError (Instr × List Byte)
  | b0 :: b1 :: b2 :: b3 :: rest =>
    match decodeWord (wordOfBytes b0 b1 b2 b3) with
    | .ok i => .ok (i, rest)
    | .error e => .error e
  | _ => .error .truncated

/-- OP of each command (R92). -/
def Instr.opcode : Instr → BitVec 4
  | .nop => 0#4
  | .blitUnpremul => 1#4
  | .blitPremul => 2#4
  | .pixUnpremul => 3#4
  | .pixPremul => 4#4
  | .recipRead => 5#4

/-- The CMD32 fields of a command (R90, R92). -/
def Instr.fields (i : Instr) : CmdWord := { op := i.opcode, mbz := 0#28 }

/-- The command word of an instruction, from its fields (R90, R92). -/
def encodeWord (i : Instr) : Word := i.fields.toWord

/-- The bytes of an instruction's command word. -/
def encode (i : Instr) : List Byte := bytesOfWord (encodeWord i)

/-- The command word that spec/opcode_table.json's numbering gives for `nbits` bits `w`: bit 0 is the least significant
bit, and every bit at or above `nbits` is 0. -/
def tableWord (nbits w : Nat) : Word := BitVec.ofNat 32 (w % 2 ^ nbits)

/-- The instruction the decoder reads from the word `w` of `nbits` bits, laid out as bytes. -/
def decodeTableWord (nbits w : Nat) : Option Instr :=
  match decode (bytesOfWord (tableWord nbits w)) with
  | .ok (i, _) => some i
  | .error _ => none

end Sys2Proof
end

