-- ==== Sys2Proof/Config.lean ====
section
/-!
DEFINITION. What one build of the block and its platform fix, and the free values. The parameters are carried in
State (`params`) and no step changes them, so that a statement about every state is a statement about every build.
-/

namespace Sys2Proof

/-- The four values of `ALPHA_OFFSET` (R6), named by CONFIG.APOS (R7's table): 0, 8, 16, 24. -/
inductive AlphaPos where
  | apos0
  | apos1
  | apos2
  | apos3
deriving DecidableEq, Repr

/-- What a stretch of the address space is when it is not plain readable and writable memory (R64, R67). -/
inductive RegionKind where
  /-- Nothing answers there. -/
  | unmapped
  /-- Readable, not writable. -/
  | readOnly
  /-- Writable, not readable. -/
  | writeOnly
  /-- A device: reads have side effects, or do not return the same value twice (R64). -/
  | device
deriving DecidableEq, Repr

/-- A stretch of the platform's address space: bytes `base` to `base + size - 1`. -/
structure Region where
  base : Nat
  size : Nat
  kind : RegionKind
deriving DecidableEq, Repr

/-- The build-time and platform parameters: `ALPHA_OFFSET` (R6), `REG_BASE` (R10, OPEN), and which stretches of the
address space are not plain memory (R67: the validity of buffers is a caller precondition on the platform). -/
structure Params where
  alpha : AlphaPos
  regBase : Word
  regions : List Region
deriving DecidableEq, Repr

namespace Config

/-- DESIGN CHOICE (log 2), unsafe: the parameters of `State.reset`. `ALPHA_OFFSET = 24` is the layout of the spec's
vectors (95_test_vectors.md, conventions); `REG_BASE` is OPEN and has here a value away from their addresses; no
stretch of the address space is set apart. Statements quantify over `params`. -/
def resetParams : Params := { alpha := .apos3, regBase := 0x10000000#32, regions := [] }

/-- DESIGN CHOICE (log 4), unsafe: what a byte of memory that nothing has written reads as. The programs of
95_test_vectors.md section 3 use this value ("Memory not listed is 0 and stays 0"); no rule states it. -/
def blankByte : Byte := 0#8

/-- `AnyValue()` (R13): a free 32-bit value for the draw's number and the address of the word it is drawn for, under
no law (R69, R74, R301; log 5). -/
opaque anyValue : Nat → Word → Word

/-- The race of R74(b): whether a host read of a destination word during RUN returns the final value (or the value at
acceptance), for the draw's number and the word's address; free (log 6). -/
opaque raceTakesFinal : Nat → Word → Bool

end Config

end Sys2Proof
end

