-- ==== Sys2Proof/Machine/State.lean ====
section
/-!
DEFINITION. The state of the machine as plain data: the registers of the window (10_state.md R20 to R32), the engine's
hidden state (R30, R33, R34), system memory (R60), and the model's own fields (the pending accesses of the outside
world, the interleaving, the records, the draw counter).
-/

namespace Sys2Proof.Machine

/-- System memory (R60): the bytes that differ from `Config.blankByte`, addresses strictly rising. -/
abbrev Memory := List Host.Cell

/-- The two agents that take steps (R11). -/
inductive Agent where
  | host
  | engine
deriving DecidableEq, Repr

/-- `phase` of R30. -/
inductive Phase where
  | idle
  | run
deriving DecidableEq, Repr

/-- `rd` of R30: the state of the run detector. -/
inductive RunState where
  | probe
  | solidRun
  | constantRun
deriving DecidableEq, Repr

/-- Where the engine stands in the row procedure of R195, named after the memory access it performed last: everything
up to the next access happens in the step of that next access (R195; log 14). -/
inductive Point where
  /-- No access of the command yet. -/
  | rowStart
  /-- `p0` of a pair has been read. -/
  | gotP0
  /-- `p1` of a pair has been read. -/
  | gotP1
  /-- `q0` of a pair has been written. -/
  | putQ0
  /-- `q1` of a pair has been written. -/
  | putQ1
  /-- The single tail pixel has been read (R199). -/
  | gotTail
  /-- The single tail pixel has been written. -/
  | putTail
  /-- A run loop has read its next pixel. -/
  | gotT
  /-- A run loop has written a pixel. -/
  | putT
deriving DecidableEq, Repr

/-- One memory access of the engine, as the trace records it (R205). -/
inductive Access where
  | read (addr value : Word)
  | write (addr value : Word)
deriving DecidableEq, Repr

/-- What the engine's next step does: one memory access (R71), or the completion step (R227). -/
inductive Motion where
  | read (addr : Word)
  | write (addr value : Word)
  | finish
deriving DecidableEq, Repr

/-- CTRL (R24): CLAMP_EN; bits 31:1 are RAZ/WI and have no storage (log 20). -/
structure Ctrl where
  clampEn : Bool
deriving DecidableEq, Repr

/-- STATUS (R25): its four bits; bits 31:4 are RAZ/WI and have no storage (log 20). -/
structure Status where
  busy : Bool
  done : Bool
  errOpcode : Bool
  errBusy : Bool
deriving DecidableEq, Repr

/-- `L` of R33: what the engine copies when a command is accepted. Strides, width and height are the signed values
`s32(x[..])`. -/
structure Latch where
  op : Instr
  src : Word
  sstride : Int
  dst : Word
  dstride : Int
  width : Int
  height : Int
  clamp : Bool
deriving DecidableEq, Repr

/-- The engine: `phase`, `r`, `i`, `rd` (R30), `L` (R33), the run detector's registers (R34), and what R195 implies
between two of its steps (`point`, `q1`, `t`). `mem0` and `interfered` are the model's own: memory at the acceptance of
the running command (`M0` of R229) and whether a host write has touched its footprints since (R74(a)). -/
structure Engine where
  phase : Phase
  r : Nat
  i : Nat
  rd : RunState
  point : Point
  latch : Latch
  p0 : Word
  p1 : Word
  q0 : Word
  q1 : Word
  t : Word
  accu : Word
  diff : Word
  mem0 : Memory
  interfered : Bool
deriving DecidableEq, Repr

/-- The whole machine. `params` is fixed (R6, R10, R67); `host`, `turns`, `reads`, `trace` and `draws` are the model's own
fields: the coming accesses of the host and the platform, who moves while both agents can (R258), what host reads
returned (newest first), the engine's accesses of the current or last BLIT (newest first, R205), and the number of free
draws made (R13). -/
structure State where
  params : Params
  ctrl : Ctrl
  status : Status
  srcAddr : Word
  srcStride : Word
  dstAddr : Word
  dstStride : Word
  width : Word
  height : Word
  pixIn : Word
  pixOut : Word
  engine : Engine
  mem : Memory
  host : List HostOp
  turns : List Agent
  reads : List BusData
  trace : List Access
  draws : Nat
deriving DecidableEq, Repr

/-- Why a run stops with no successor state (93_implementation_defined.md: "No proof may depend on what follows it"). -/
inductive Fault where
  /-- The engine accesses the block's own register window (R61). Raised by the engine's step; safe. -/
  | engineInWindow (addr : Word)
  /-- The engine reads a word that is not readable memory (R67). Raised by the engine's step; safe. -/
  | engineUnreadable (addr : Word)
  /-- The engine writes a word that is not writable memory (R67). Raised by the engine's step; safe. -/
  | engineUnwritable (addr : Word)
  /-- The engine reads memory whose reads have side effects (R64). Raised by the engine's step; safe. -/
  | engineSideEffect (addr : Word)
  /-- A host accesses an address where the platform has nothing that can serve the access (log 10). Raised by the
  host's step; safe. -/
  | hostNoMemory (addr : Word)
deriving DecidableEq, Repr

/-- Why the model gives a step no meaning. -/
inductive Refusal where
  /-- An instruction without a meaning: raised by no arm of this model; safe. -/
  | notModelled (mnemonic : String)
  /-- A host access to the register window that is not 32-bit and aligned (R21). Raised by the host's step; safe. -/
  | windowAccess (addr : Word)
  /-- A host access to a device of the platform, whose behaviour the spec does not give (log 10). Raised by the
  host's step; safe. -/
  | foreignDevice (addr : Word)
deriving DecidableEq, Repr

/-- `L` after reset: unspecified and never read before an acceptance writes it (R38); DESIGN CHOICE zero (log 3). -/
def Latch.reset : Latch :=
  { op := .nop, src := 0#32, sstride := 0, dst := 0#32, dstride := 0, width := 0, height := 0, clamp := false }

/-- The engine after reset: IDLE (R38); the rest is unspecified and never read before an acceptance writes it (R38);
DESIGN CHOICE zero (log 3). -/
def Engine.reset : Engine :=
  { phase := .idle, r := 0, i := 0, rd := .probe, point := .rowStart, latch := Latch.reset, p0 := 0#32, p1 := 0#32,
    q0 := 0#32, q1 := 0#32, t := 0#32, accu := 0#32, diff := 0#32, mem0 := [], interfered := false }

/-- The machine right after reset for given parameters (R38, R300), with blank memory (log 4) and nothing pending. -/
def State.resetWith (params : Params) : State :=
  { params := params, ctrl := { clampEn := false },
    status := { busy := false, done := false, errOpcode := false, errBusy := false },
    srcAddr := 0#32, srcStride := 0#32, dstAddr := 0#32, dstStride := 0#32, width := 0#32, height := 0#32,
    pixIn := 0#32, pixOut := 0#32, engine := Engine.reset, mem := [], host := [], turns := [], reads := [],
    trace := [], draws := 0 }

/-- The machine right after reset (R38, R300), for the parameters of log 2. -/
def State.reset : State := State.resetWith Config.resetParams

end Sys2Proof.Machine
end

