-- ==== Sys2Proof/Machine/Pixel.lean ====
section
/-!
DEFINITION. The pixel arithmetic: channel layout (R7, R14), the reciprocal ROM (R120, R123) and its lookup (R124), the
unpremultiply (R142, R144) and premultiply (R171, R172) functions. Values are taken as naturals, computed exactly and
narrowed once (R149, R176).
-/

namespace Sys2Proof

/-- CONFIG.APOS of each layout (R7's table, R23). -/
def AlphaPos.apos : AlphaPos → Nat
  | .apos0 => 0
  | .apos1 => 1
  | .apos2 => 2
  | .apos3 => 3

/-- `ALPHA_OFFSET` (R6). -/
def AlphaPos.alphaOffset (A : AlphaPos) : Nat := 8 * A.apos

/-- `RED_OFFSET` (R7). -/
def AlphaPos.redOffset (A : AlphaPos) : Nat := (A.alphaOffset + 24) % 32

/-- `GREEN_OFFSET` (R7). -/
def AlphaPos.greenOffset (A : AlphaPos) : Nat := (A.alphaOffset + 16) % 32

/-- `BLUE_OFFSET` (R7). -/
def AlphaPos.blueOffset (A : AlphaPos) : Nat := (A.alphaOffset + 8) % 32

/-- The mask of the channel at offset `o`: `0xFF << o` modulo 2^32 (R7). -/
def channelMask (o : Nat) : Word := 0xFF#32 <<< o

/-- `AMASK` (R7). -/
def AlphaPos.amask (A : AlphaPos) : Word := channelMask A.alphaOffset

/-- `ch(p, o) = (p >> o) and 0xFF` (R14). -/
def ch (p : Word) (o : Nat) : Byte := (p >>> o).setWidth 8

/-- `alpha(p)` (R14). -/
def AlphaPos.alpha (A : AlphaPos) (p : Word) : Byte := ch p A.alphaOffset

/-- `red(p)` (R14). -/
def AlphaPos.red (A : AlphaPos) (p : Word) : Byte := ch p A.redOffset

/-- `green(p)` (R14). -/
def AlphaPos.green (A : AlphaPos) (p : Word) : Byte := ch p A.greenOffset

/-- `blue(p)` (R14). -/
def AlphaPos.blue (A : AlphaPos) (p : Word) : Byte := ch p A.blueOffset

/-- `pack(a, r, g, b)` (R14). -/
def AlphaPos.pack (A : AlphaPos) (a r g b : Byte) : Word :=
  (a.setWidth 32 <<< A.alphaOffset) ||| (r.setWidth 32 <<< A.redOffset) |||
    (g.setWidth 32 <<< A.greenOffset) ||| (b.setWidth 32 <<< A.blueOffset)

/-- `clamp8(v) = min(v, 255)` (R14): saturation (90_conflicts.md C7). -/
def clamp8 (v : Nat) : Byte := BitVec.ofNat 8 (min v 255)

namespace Machine

/-- Entries 0x00 to 0x1F of the table of R123. -/
def recipRom0 : List Nat :=
  [0x000000, 0xFF0000, 0x7F8000, 0x550000, 0x3FC000, 0x330000, 0x2A8000, 0x246DB7,
   0x1FE000, 0x1C5556, 0x198000, 0x172E8C, 0x154000, 0x139D8A, 0x1236DC, 0x110000,
   0x0FF000, 0x0F0000, 0x0E2AAB, 0x0D6BCB, 0x0CC000, 0x0C2493, 0x0B9746, 0x0B1643,
   0x0AA000, 0x0A3334, 0x09CEC5, 0x0971C8, 0x091B6E, 0x08CB09, 0x088000, 0x0839CF]

/-- Entries 0x20 to 0x3F of the table of R123. -/
def recipRom1 : List Nat :=
  [0x07F800, 0x07BA2F, 0x078000, 0x074925, 0x071556, 0x06E454, 0x06B5E6, 0x0689D9,
   0x066000, 0x063832, 0x06124A, 0x05EE24, 0x05CBA3, 0x05AAAB, 0x058B22, 0x056CF0,
   0x055000, 0x05343F, 0x05199A, 0x050000, 0x04E763, 0x04CFB3, 0x04B8E4, 0x04A2E9,
   0x048DB7, 0x047944, 0x046585, 0x045271, 0x044000, 0x042E2A, 0x041CE8, 0x040C31]

/-- Entries 0x40 to 0x5F of the table of R123. -/
def recipRom2 : List Nat :=
  [0x03FC00, 0x03EC4F, 0x03DD18, 0x03CE55, 0x03C000, 0x03B217, 0x03A493, 0x039770,
   0x038AAB, 0x037E40, 0x03722A, 0x036667, 0x035AF3, 0x034FCB, 0x0344ED, 0x033A55,
   0x033000, 0x0325EE, 0x031C19, 0x031282, 0x030925, 0x030000, 0x02F712, 0x02EE59,
   0x02E5D2, 0x02DD7C, 0x02D556, 0x02CD5D, 0x02C591, 0x02BDF0, 0x02B678, 0x02AF29]

/-- Entries 0x60 to 0x7F of the table of R123. -/
def recipRom3 : List Nat :=
  [0x02A800, 0x02A0FE, 0x029A20, 0x029365, 0x028CCD, 0x028657, 0x028000, 0x0279CA,
   0x0273B2, 0x026DB7, 0x0267DA, 0x026218, 0x025C72, 0x0256E7, 0x025175, 0x024C1C,
   0x0246DC, 0x0241B3, 0x023CA2, 0x0237A7, 0x0232C3, 0x022DF3, 0x022939, 0x022493,
   0x022000, 0x021B82, 0x021715, 0x0212BC, 0x020E74, 0x020A3E, 0x020619, 0x020205]

/-- Entries 0x80 to 0x9F of the table of R123. -/
def recipRom4 : List Nat :=
  [0x01FE00, 0x01FA0C, 0x01F628, 0x01F253, 0x01EE8C, 0x01EAD4, 0x01E72B, 0x01E38F,
   0x01E000, 0x01DC80, 0x01D90C, 0x01D5A4, 0x01D24A, 0x01CEFB, 0x01CBB8, 0x01C881,
   0x01C556, 0x01C235, 0x01BF20, 0x01BC15, 0x01B915, 0x01B61F, 0x01B334, 0x01B052,
   0x01AD7A, 0x01AAAB, 0x01A7E6, 0x01A52A, 0x01A277, 0x019FCC, 0x019D2B, 0x019A91]

/-- Entries 0xA0 to 0xBF of the table of R123. -/
def recipRom5 : List Nat :=
  [0x019800, 0x019578, 0x0192F7, 0x01907E, 0x018E0D, 0x018BA3, 0x018941, 0x0186E6,
   0x018493, 0x018246, 0x018000, 0x017DC2, 0x017B89, 0x017958, 0x01772D, 0x017508,
   0x0172E9, 0x0170D1, 0x016EBE, 0x016CB2, 0x016AAB, 0x0168AA, 0x0166AF, 0x0164B9,
   0x0162C9, 0x0160DE, 0x015EF8, 0x015D18, 0x015B3C, 0x015966, 0x015795, 0x0155C8]

/-- Entries 0xC0 to 0xDF of the table of R123. -/
def recipRom6 : List Nat :=
  [0x015400, 0x01523E, 0x01507F, 0x014EC5, 0x014D10, 0x014B5F, 0x0149B3, 0x01480B,
   0x014667, 0x0144C7, 0x01432C, 0x014194, 0x014000, 0x013E71, 0x013CE5, 0x013B5D,
   0x0139D9, 0x013859, 0x0136DC, 0x013563, 0x0133ED, 0x01327B, 0x01310C, 0x012FA1,
   0x012E39, 0x012CD5, 0x012B74, 0x012A16, 0x0128BB, 0x012763, 0x01260E, 0x0124BD]

/-- Entries 0xE0 to 0xFF of the table of R123. -/
def recipRom7 : List Nat :=
  [0x01236E, 0x012223, 0x0120DA, 0x011F94, 0x011E51, 0x011D11, 0x011BD4, 0x011A99,
   0x011962, 0x01182C, 0x0116FA, 0x0115CA, 0x01149D, 0x011372, 0x01124A, 0x011124,
   0x011000, 0x010EE0, 0x010DC1, 0x010CA5, 0x010B8B, 0x010A73, 0x01095E, 0x01084B,
   0x01073A, 0x01062C, 0x01051F, 0x010415, 0x01030D, 0x010207, 0x010103, 0x010000]

/-- The ROM of R36: the 256 entries of R123 in order. -/
def recipRom : List Nat :=
  recipRom0 ++ recipRom1 ++ recipRom2 ++ recipRom3 ++ recipRom4 ++ recipRom5 ++ recipRom6 ++ recipRom7

/-- `RECIP[α]`, a 24-bit entry (R36, R123). -/
def recip (a : Byte) : BitVec 24 := BitVec.ofNat 24 (recipRom.getD a.toNat 0)

/-- `LookupDivide(c, α) = (c * RECIP[α]) >> RECIPROCAL_BITS` (R124). -/
def lookupDivide (c : Nat) (a : Byte) : Nat := (c * (recip a).toNat) >>> 16

/-- The input clamp policy of R143: with the clamp bit a colour is first reduced to at most alpha. -/
def clampInput (c a : Byte) (clamp : Bool) : Nat := if clamp then min c.toNat a.toNat else c.toNat

/-- `UnpremulChannel(c, a, clamp)` (R142). -/
def unpremulChannel (c a : Byte) (clamp : Bool) : Byte := clamp8 (lookupDivide (clampInput c a clamp) a)

/-- `UnpremulPixel(p, clamp)` (R144). -/
def unpremulPixel (A : AlphaPos) (p : Word) (clamp : Bool) : Word :=
  A.pack (A.alpha p) (unpremulChannel (A.red p) (A.alpha p) clamp) (unpremulChannel (A.green p) (A.alpha p) clamp)
    (unpremulChannel (A.blue p) (A.alpha p) clamp)

/-- `PremulChannel(c, a)` (R171): the formula is normative (90_conflicts.md C1). -/
def premulChannel (c a : Byte) : Byte := clamp8 ((c.toNat * a.toNat * 257 + 32768) >>> 16)

/-- `PremulPixel(p)` (R172). -/
def premulPixel (A : AlphaPos) (p : Word) : Word :=
  A.pack (A.alpha p) (premulChannel (A.red p) (A.alpha p)) (premulChannel (A.green p) (A.alpha p))
    (premulChannel (A.blue p) (A.alpha p))

/-- `SHIFT(x, s)` of R145: left modulo 2^32 for `s ≥ 0`, right for `s < 0`. -/
def positionedShift (x : Nat) (s : Int) : Word :=
  if 0 ≤ s then BitVec.ofNat 32 (x <<< s.toNat) else BitVec.ofNat 32 (x >>> (-s).toNat)

/-- `F` of R190, chosen by the command the engine runs: BLIT_UNPREMUL and BLIT_PREMUL. RUN is entered with no other
command (R31); for the others the function of the same name, or none, stands here and is never used (log 15). -/
def pixelFunction (A : AlphaPos) (l : Latch) (p : Word) : Word :=
  match l.op with
  | .nop => p
  | .blitUnpremul => unpremulPixel A p l.clamp
  | .blitPremul => premulPixel A p
  | .pixUnpremul => unpremulPixel A p l.clamp
  | .pixPremul => premulPixel A p
  | .recipRead => p

end Machine

end Sys2Proof
end

