-- ==== Sys2Proof/Machine/Flags.lean ====
section
/-!
DEFINITION. Flags: the four bits of STATUS with what sets and clears each (R25, R95, R226, R227, R252, R253, R254, R256),
and the internal flags `accu` and `diff` of the run detector (R34, R35, R192) with the tests on them (R196).
-/

namespace Sys2Proof.Machine

/-- STATUS as the host reads it (R25): BUSY, DONE, ERR_OPCODE, ERR_BUSY in bits 0 to 3, bits 31:4 zero. -/
def Status.toWord (st : Status) : Word :=
  (BitVec.ofBool st.errBusy ++ BitVec.ofBool st.errOpcode ++ BitVec.ofBool st.done ++ BitVec.ofBool st.busy).setWidth 32

/-- Acceptance of a command clears DONE and nothing else (R252). -/
def Status.onAccept (st : Status) : Status := { st with done := false }

/-- The completion of an accepted command sets DONE (R253). -/
def Status.onComplete (st : Status) : Status := { st with done := true }

/-- The start of a non-empty BLIT sets BUSY (R226). -/
def Status.onStart (st : Status) : Status := { st with busy := true }

/-- The completion step of a BLIT clears BUSY and sets DONE (R227). -/
def Status.onFinish (st : Status) : Status := { st with busy := false, done := true }

/-- A reserved word written to CMD while idle sets ERR_OPCODE (R95). -/
def Status.onReserved (st : Status) : Status := { st with errOpcode := true }

/-- A CMD write while busy sets ERR_BUSY (R254). -/
def Status.onBusyWrite (st : Status) : Status := { st with errBusy := true }

/-- A host write of `v` to STATUS: each of DONE, ERR_OPCODE, ERR_BUSY is cleared where its bit of `v` is 1; bit 0 and
bits 31:4 of `v` are ignored (R256). -/
def Status.clearBy (st : Status) (v : Word) : Status :=
  { st with
    done := st.done && !(v.getLsbD 1)
    errOpcode := st.errOpcode && !(v.getLsbD 2)
    errBusy := st.errBusy && !(v.getLsbD 3) }

/-- CTRL as the host reads it (R24): CLAMP_EN in bit 0, bits 31:1 zero. -/
def Ctrl.toWord (c : Ctrl) : Word := (BitVec.ofBool c.clampEn).setWidth 32

/-- CTRL after a host write of `v`: it takes `v and 0x1` (R251). -/
def Ctrl.ofWrite (v : Word) : Ctrl := { clampEn := v.getLsbD 0 }

/-- `accu` of a probe pair: `(alpha(p0) + alpha(p1) - 510) mod 2^32` (R34, R192). -/
def accuOf (A : AlphaPos) (p0 p1 : Word) : Word :=
  BitVec.ofInt 32 ((A.alpha p0).toNat + (A.alpha p1).toNat - 510)

/-- `diff` of a probe pair: the bitwise XOR of the raw pixels (R34, R192). -/
def diffOf (p0 p1 : Word) : Word := p0 ^^^ p1

/-- The run detector's next state after a probe pair: the solid-run test first, then the constant-run test (R196). -/
def dispatchRun (accu diff : Word) : RunState :=
  if accu = 0#32 then .solidRun else if diff = 0#32 then .constantRun else .probe

/-- Whether a pixel reads as fully opaque: `(t and AMASK) = AMASK` (R193). -/
def opaquePixel (A : AlphaPos) (t : Word) : Bool := (t &&& A.amask) == A.amask

/-- Whether the pixel `t` continues the run (R193, R194); no run is on in PROBE. -/
def continuesRun (A : AlphaPos) (rd : RunState) (p0 t : Word) : Bool :=
  match rd with
  | .probe => false
  | .solidRun => opaquePixel A t
  | .constantRun => t == p0

end Sys2Proof.Machine
end

