-- ==== Sys2Proof/Machine/Operands.lean ====
section
/-!
DEFINITION. Operands: the registers of the window and their offsets (R20), the operands latched at acceptance (R33), the
addresses of source and destination pixels (R65), the footprints (R66), well-defined commands (R68), and what stands at
an address of the platform (R61, R64, R67).
-/

namespace Sys2Proof

/-- The byte offset of each register in the window (R20). -/
def Reg.offset : Reg → Nat
  | .config => 0x00
  | .ctrl => 0x04
  | .status => 0x08
  | .cmd => 0x0C
  | .srcAddr => 0x10
  | .srcStride => 0x14
  | .dstAddr => 0x18
  | .dstStride => 0x1C
  | .width => 0x20
  | .height => 0x24
  | .pixIn => 0x28
  | .pixOut => 0x2C

/-- The registers of the window in the order of R20. -/
def Reg.all : List Reg :=
  [.config, .ctrl, .status, .cmd, .srcAddr, .srcStride, .dstAddr, .dstStride, .width, .height, .pixIn, .pixOut]

/-- The register at a byte offset; none at the reserved offsets (R20). -/
def Reg.atOffset (off : Nat) : Option Reg := Reg.all.find? (fun r => r.offset == off)

/-- The bytes of a host access of each size. -/
def AccessSize.bytes : AccessSize → Nat
  | .byte => 1
  | .half => 2
  | .word => 4
  | .dword => 8

/-- The bus address of a register: `REG_BASE + offset(REG)` (R97). -/
def Params.regAddr (P : Params) (r : Reg) : Word := P.regBase + BitVec.ofNat 32 r.offset

/-- The offset of an address from `REG_BASE`. -/
def Params.windowOffset (P : Params) (a : Word) : Nat := (a - P.regBase).toNat

/-- Whether a byte address lies in the block's 256-byte register window (R20). -/
def Params.inWindow (P : Params) (b : Word) : Bool := decide (P.windowOffset b < 256)

/-- What the platform says of a byte address outside plain memory; none for plain memory (R67; log 8). -/
def Params.kindAt (P : Params) (b : Word) : Option RegionKind :=
  (P.regions.find? (fun g => decide (g.base ≤ b.toNat) && decide (b.toNat < g.base + g.size))).map Region.kind

/-- The `n` byte addresses from `a` on, modulo 2^32 (R62, D4). -/
def span (a : Word) (n : Nat) : List Word := (List.range n).map (fun k => a + BitVec.ofNat 32 k)

/-- Whether byte `b` is one of the four bytes of the word at `w`, modulo 2^32. -/
def wordHolds (w b : Word) : Bool := decide ((b - w).toNat < 4)

namespace Machine

/-- `L` for a command accepted now (R33, R94). -/
def State.latchFor (s : State) (i : Instr) : Latch :=
  { op := i, src := s.srcAddr, sstride := s.srcStride.toInt, dst := s.dstAddr, dstride := s.dstStride.toInt,
    width := s.width.toInt, height := s.height.toInt, clamp := s.ctrl.clampEn }

/-- `S(r, i)` (R65): the arithmetic is exact, then reduced modulo 2^32. -/
def Latch.srcAt (l : Latch) (r i : Nat) : Word := BitVec.ofInt 32 ((l.src.toNat : Int) + r * l.sstride + 4 * i)

/-- `D(r, i)` (R65). -/
def Latch.dstAt (l : Latch) (r i : Nat) : Word := BitVec.ofInt 32 ((l.dst.toNat : Int) + r * l.dstride + 4 * i)

/-- The pixels `(r, i)` with `0 ≤ r < L.H` and `0 ≤ i < L.W`, row by row; none when a count is not positive (R66). -/
def Latch.pixels (l : Latch) : List (Nat × Nat) :=
  (List.range l.height.toNat).flatMap (fun r => (List.range l.width.toNat).map (fun i => (r, i)))

/-- `SF` of R66, the words by address. -/
def Latch.srcFootprint (l : Latch) : List Word := l.pixels.map (fun p => l.srcAt p.1 p.2)

/-- `DF` of R66, the words by address. -/
def Latch.dstFootprint (l : Latch) : List Word := l.pixels.map (fun p => l.dstAt p.1 p.2)

/-- Whether byte `b` lies in a word of SF (R66). -/
def Latch.inSrc (l : Latch) (b : Word) : Bool := l.srcFootprint.any (fun w => wordHolds w b)

/-- Whether byte `b` lies in a word of DF (R66). -/
def Latch.inDst (l : Latch) (b : Word) : Bool := l.dstFootprint.any (fun w => wordHolds w b)

/-- The pixel whose destination word holds byte `b`, if there is one (R74(b)). -/
def Latch.dstPixel (l : Latch) (b : Word) : Option (Nat × Nat) :=
  l.pixels.find? (fun p => wordHolds (l.dstAt p.1 p.2) b)

/-- Condition 1 of R68: D is injective on its domain. -/
abbrev Latch.DstInjective (l : Latch) : Prop :=
  ∀ p ∈ l.pixels, ∀ q ∈ l.pixels, l.dstAt p.1 p.2 = l.dstAt q.1 q.2 → p = q

/-- Condition 2 of R68: no destination word is a source word of another pixel. -/
abbrev Latch.DstApartFromOtherSrc (l : Latch) : Prop :=
  ∀ p ∈ l.pixels, ∀ q ∈ l.pixels, l.dstAt p.1 p.2 = l.srcAt q.1 q.2 → p = q

/-- A well-defined command (R68). -/
abbrev Latch.WellDefined (l : Latch) : Prop := l.DstInjective ∧ l.DstApartFromOtherSrc

/-- An empty rectangle (R225). -/
abbrev Latch.Empty (l : Latch) : Prop := l.width ≤ 0 ∨ l.height ≤ 0

end Machine

/-- Why the engine cannot read the word at `a`, if so: it lies in the register window (R61), its reads have side effects
(R64), or it is not readable memory (R67). -/
def Params.engineReadStop (P : Params) (a : Word) : Option Machine.Fault :=
  if (span a 4).any P.inWindow then some (.engineInWindow a)
  else (span a 4).findSome? (fun b =>
    match P.kindAt b with
    | none => none
    | some .readOnly => none
    | some .unmapped => some (.engineUnreadable a)
    | some .writeOnly => some (.engineUnreadable a)
    | some .device => some (.engineSideEffect a))

/-- Why the engine cannot write the word at `a`, if so: it lies in the register window (R61) or is not writable memory
(R67). -/
def Params.engineWriteStop (P : Params) (a : Word) : Option Machine.Fault :=
  if (span a 4).any P.inWindow then some (.engineInWindow a)
  else (span a 4).findSome? (fun b =>
    match P.kindAt b with
    | none => none
    | some .writeOnly => none
    | some .unmapped => some (.engineUnwritable a)
    | some .readOnly => some (.engineUnwritable a)
    | some .device => some (.engineUnwritable a))

end Sys2Proof
end

