-- ==== Sys2Proof/Machine/Ops.lean ====
section
/-!
DEFINITION. The shared operations: memory (R62), free draws over a destination footprint (R69, R74, R301), register reads
and writes (R250, R251), acceptance and completion of a command (R252, R253), the two recorded errors (R95, R254), the
start and the completion step of a BLIT (R226, R227), and reset (R300, R301).

The block has no exception and no trap (R270, R275): `State.rejectBusy` and `State.rejectReserved` are all that happens
on an error (R271 rows 1 and 2).
-/

namespace Sys2Proof.Machine

/-- One byte of memory. -/
def Memory.read (m : Memory) (a : Nat) : Byte :=
  match m with
  | [] => Config.blankByte
  | c :: rest => if c.1 = a then c.2 else Memory.read rest a

/-- Set one byte of memory, keeping the canonical form. -/
def Memory.write (m : Memory) (a : Nat) (b : Byte) : Memory :=
  match m with
  | [] => if b = Config.blankByte then [] else [(a, b)]
  | c :: rest =>
    if a < c.1 then (if b = Config.blankByte then c :: rest else (a, b) :: c :: rest)
    else if a = c.1 then (if b = Config.blankByte then rest else (a, b) :: rest)
    else c :: Memory.write rest a b

/-- The canonical form: addresses strictly rising and inside the 2^32-byte space (R60), and no listed byte equal to what
an unlisted one reads as. -/
abbrev Memory.wf (m : Memory) : Prop :=
  m.Pairwise (fun c d => c.1 < d.1) ∧ ∀ c ∈ m, c.1 < 2 ^ 32 ∧ c.2 ≠ Config.blankByte

/-- `MemRead(a, 4)` (R62): little-endian, addresses modulo 2^32. -/
def Memory.readWord (m : Memory) (a : Word) : Word :=
  wordOfBytes (Memory.read m a.toNat) (Memory.read m (a + 1#32).toNat) (Memory.read m (a + 2#32).toNat)
    (Memory.read m (a + 3#32).toNat)

/-- Write the low `n` bytes of `v` at `a` on, little-endian, addresses modulo 2^32 (R62, R80). -/
def Memory.writeBytes (m : Memory) (a : Word) (n : Nat) (v : BusData) : Memory :=
  (List.range n).foldl (fun m k => Memory.write m (a + BitVec.ofNat 32 k).toNat (v.extractLsb' (8 * k) 8)) m

/-- `MemWrite(a, 4, v)` (R62). -/
def Memory.writeWord (m : Memory) (a v : Word) : Memory :=
  Memory.write (Memory.write (Memory.write (Memory.write m a.toNat (byteOfWord v 0))
    (a + 1#32).toNat (byteOfWord v 1)) (a + 2#32).toNat (byteOfWord v 2)) (a + 3#32).toNat (byteOfWord v 3)

/-- Every word of `ws` takes a free value of the draw number `n`, drawn independently per word (R69). -/
def Memory.drawWords (m : Memory) (n : Nat) (ws : List Word) : Memory :=
  ws.foldl (fun m w => Memory.writeWord m w (Config.anyValue n w)) m

/-- Every word of the command's DF that is writable memory takes a free value (R69, R74(a), R301; log 11). -/
def State.drawDst (s : State) : State :=
  { s with
    mem := Memory.drawWords s.mem s.draws
      (s.engine.latch.dstFootprint.filter (fun w => (s.params.engineWriteStop w).isNone))
    draws := s.draws + 1 }

/-- The single-pixel commands write PIX_OUT (R32). -/
def State.setPixOut (s : State) (v : Word) : State := { s with pixOut := v }

/-- A CMD write while busy is dropped and sets ERR_BUSY (R254). -/
def State.rejectBusy (s : State) : State := { s with status := s.status.onBusyWrite }

/-- A reserved word written to CMD: while idle it sets ERR_OPCODE, nothing else (R95); while busy R254 holds instead
(R273). -/
def State.rejectReserved (s : State) : State :=
  if s.status.busy then s.rejectBusy else { s with status := s.status.onReserved }

/-- Acceptance (R252): DONE is cleared and `L` is latched (R33). -/
def State.accept (s : State) (i : Instr) : State :=
  { s with status := s.status.onAccept, engine := { s.engine with latch := s.latchFor i } }

/-- Completion of an accepted command in its accepting step (R253). -/
def State.complete (s : State) : State := { s with status := s.status.onComplete }

/-- A request for command `i` (R252): dropped while busy (R254), else accepted and followed by its effect. -/
def State.request (s : State) (i : Instr) (effect : State → State) : Host.Outcome State Fault Refusal :=
  if s.status.busy then .next s.rejectBusy else .next (effect (s.accept i))

/-- The start of a non-empty BLIT (R226): RUN, BUSY, `r = 0`, no memory access. -/
def State.beginRun (s : State) : State :=
  { s with
    status := s.status.onStart
    engine := { s.engine with
      phase := .run, r := 0, i := 0, rd := .probe, point := .rowStart, mem0 := s.mem, interfered := false }
    trace := [] }

/-- A BLIT on acceptance (R230, R231): an empty rectangle completes at once (R225), another starts (R226). -/
def State.startBlit (s : State) : State :=
  if s.engine.latch.Empty then s.complete else s.beginRun

/-- IDLE, BUSY cleared, DONE set: the completion step of R227. -/
def State.endRun (s : State) : State :=
  { s with status := s.status.onFinish, engine := { s.engine with phase := .idle } }

/-- Whether the running command leaves the value of R229 in its destination: it is well-defined (R68) and no host write
has touched its footprints (R74(a)). -/
abbrev Engine.Defined (e : Engine) : Prop := e.latch.WellDefined ∧ e.interfered = false

/-- The completion step of a BLIT (R227). A command that is not well-defined (R69), or whose footprints a host write has
touched (R74(a)), leaves a free value in every word of DF. -/
def State.finishBlit (s : State) : State :=
  if s.engine.Defined then s.endRun else s.drawDst.endRun

/-- A host read of a register (R250, R22): the value under its access type; CMD reads 0 (R26). -/
def State.regValue (s : State) : Reg → Word
  | .config => 0x00001000#32 ||| BitVec.ofNat 32 s.params.alpha.apos
  | .ctrl => s.ctrl.toWord
  | .status => s.status.toWord
  | .cmd => 0#32
  | .srcAddr => s.srcAddr
  | .srcStride => s.srcStride
  | .dstAddr => s.dstAddr
  | .dstStride => s.dstStride
  | .width => s.width
  | .height => s.height
  | .pixIn => s.pixIn
  | .pixOut => s.pixOut

/-- A host read at a window offset: a reserved offset reads 0 (R21). -/
def State.readOffset (s : State) (off : Nat) : Word :=
  match Reg.atOffset off with
  | some r => s.regValue r
  | none => 0#32

/-- Bits 1:0 hardwired to 0 (R27, R28): the register takes `v and 0xFFFFFFFC` (R251). -/
def alignWord (v : Word) : Word := v &&& 0xFFFFFFFC#32

/-- A host write of `v` to a register that is not CMD (R251); CONFIG and PIX_OUT are unchanged, STATUS follows R256.
A CMD write is a command request (R26) and is no write of this kind. -/
def State.writeReg (s : State) (r : Reg) (v : Word) : State :=
  match r with
  | .config => s
  | .ctrl => { s with ctrl := Ctrl.ofWrite v }
  | .status => { s with status := s.status.clearBy v }
  | .cmd => s
  | .srcAddr => { s with srcAddr := alignWord v }
  | .srcStride => { s with srcStride := alignWord v }
  | .dstAddr => { s with dstAddr := alignWord v }
  | .dstStride => { s with dstStride := alignWord v }
  | .width => { s with width := v }
  | .height => { s with height := v }
  | .pixIn => { s with pixIn := v }
  | .pixOut => s

/-- Reset as one step (R300): every register and the engine at the values of R38. Memory is unchanged (R304), but for the
DF words of a command that reset cuts short (R301). The parameters and the world outside (what the host has yet to do,
what it has read) are no state of the block. -/
def State.resetBlock (s : State) : State :=
  let t := if s.engine.phase = .run then s.drawDst else s
  { State.resetWith s.params with
    mem := t.mem, draws := t.draws, host := s.host, turns := s.turns, reads := s.reads, trace := s.trace }

end Sys2Proof.Machine
end

