-- ==== Sys2Proof/Machine/Engine.lean ====
section
/-!
DEFINITION. The engine in RUN: the row procedure of R195 with its run detector (R192 to R200) inside the row loop of R228,
one memory access a step (R71), and the completion step (R227). Everything between two accesses happens in the step of
the later one (R195; log 14).
-/

namespace Sys2Proof.Machine

/-- How many pixels of the row remain: `N - i` (R195). -/
def Engine.remaining (e : Engine) : Nat := e.latch.width.toNat - e.i

/-- Read source pixel `k` of the row (R191), and stand at `point`. -/
def Engine.readSrc (e : Engine) (k : Nat) (point : Point) : Engine × Motion :=
  ({ e with point := point }, .read (e.latch.srcAt e.r k))

/-- Write `v` to destination pixel `k` of the row (R191), and stand at `point`. -/
def Engine.writeDst (e : Engine) (k : Nat) (v : Word) (point : Point) : Engine × Motion :=
  ({ e with point := point }, .write (e.latch.dstAt e.r k) v)

/-- A probe where at least one pixel of the row remains: the first pixel of a pair, or the single tail pixel (R195, R199). -/
def Engine.probePixel (e : Engine) : Engine × Motion :=
  Engine.readSrc { e with rd := .probe } e.i (if 2 ≤ e.remaining then .gotP0 else .gotTail)

/-- Return to the head of R195's loop: probe on; or, at the end of the row, on to the first probe of the next row, with
nothing carried over (R198, R228); or, after the last row, the completion step (R227). Where a row is empty there is no
row with a pixel (RUN is entered with L.W > 0 only, R31). -/
def Engine.probe (e : Engine) : Engine × Motion :=
  if 0 < e.remaining then e.probePixel
  else if (e.r : Int) + 1 < e.latch.height ∧ 0 < e.latch.width then Engine.probePixel { e with r := e.r + 1, i := 0 }
  else ({ e with rd := .probe }, .finish)

/-- The head of a run loop (R193, R194): read the next pixel, or the row ends (R197). -/
def Engine.runLoop (e : Engine) : Engine × Motion :=
  if 0 < e.remaining then e.readSrc e.i .gotT else e.probe

/-- After the second write of a pair: `accu`, `diff`, `i := i + 2`, and the dispatch of R196. -/
def Engine.afterPair (A : AlphaPos) (e : Engine) : Engine × Motion :=
  let rd := dispatchRun (accuOf A e.p0 e.p1) (diffOf e.p0 e.p1)
  let e' := { e with accu := accuOf A e.p0 e.p1, diff := diffOf e.p0 e.p1, i := e.i + 2, rd := rd }
  if rd = .probe then e'.probe else e'.runLoop

/-- What a run loop writes for a pixel that continues the run: the pixel itself in a solid run (R193), the first pixel's
transform in a constant run (R194). -/
def Engine.runValue (e : Engine) : Word := if e.rd = .solidRun then e.t else e.q0

/-- The engine's next motion, and the engine as it stands when that motion is made (R195, R228). -/
def Engine.next (A : AlphaPos) (e : Engine) : Engine × Motion :=
  match e.point with
  | .rowStart => e.probe
  | .gotP0 => e.readSrc (e.i + 1) .gotP1
  | .gotP1 =>
    Engine.writeDst { e with q0 := pixelFunction A e.latch e.p0, q1 := pixelFunction A e.latch e.p1 } e.i
      (pixelFunction A e.latch e.p0) .putQ0
  | .putQ0 => e.writeDst (e.i + 1) e.q1 .putQ1
  | .putQ1 => e.afterPair A
  | .gotTail => e.writeDst e.i (pixelFunction A e.latch e.p0) .putTail
  | .putTail => Engine.probe { e with i := e.i + 1 }
  | .gotT => if continuesRun A e.rd e.p0 e.t then e.writeDst e.i e.runValue .putT else e.probe
  | .putT => Engine.runLoop { e with i := e.i + 1 }

/-- Take in a word that was read: `p0`, `p1` or `t` of R195, by where the engine stands. -/
def Engine.receive (e : Engine) (v : Word) : Engine :=
  match e.point with
  | .gotP0 => { e with p0 := v }
  | .gotP1 => { e with p1 := v }
  | .gotTail => { e with p0 := v }
  | .gotT => { e with t := v }
  | .rowStart => e
  | .putQ0 => e
  | .putQ1 => e
  | .putTail => e
  | .putT => e

/-- The engine's `MemRead` as one atomic step (R64, R71). -/
def State.engineRead (s : State) (a : Word) : State :=
  { s with
    engine := s.engine.receive (Memory.readWord s.mem a)
    trace := .read a (Memory.readWord s.mem a) :: s.trace }

/-- The engine's `MemWrite` as one atomic step (R64, R71). -/
def State.engineWrite (s : State) (a v : Word) : State :=
  { s with mem := Memory.writeWord s.mem a v, trace := .write a v :: s.trace }

/-- Make one motion: an access outside the memory the engine may touch stops the model (R61, R64, R67). -/
def State.perform (s : State) (m : Motion) : Host.Outcome State Fault Refusal :=
  match m with
  | .read a =>
    match s.params.engineReadStop a with
    | some f => .fault f
    | none => .next (s.engineRead a)
  | .write a v =>
    match s.params.engineWriteStop a with
    | some f => .fault f
    | none => .next (s.engineWrite a v)
  | .finish => .next s.finishBlit

/-- One step of the engine in RUN (R258). -/
def engineStep (s : State) : Host.Outcome State Fault Refusal :=
  State.perform { s with engine := (s.engine.next s.params.alpha).1 } (s.engine.next s.params.alpha).2

end Sys2Proof.Machine
end

