-- ==== Sys2Proof/Machine/Blit.lean ====
section
/-!
DEFINITION. The rectangle commands on acceptance: BLIT_UNPREMUL (R230) and BLIT_PREMUL (R231). What follows in RUN is the
engine's (Machine/Engine.lean), which reads only `L` (R33).
-/

namespace Sys2Proof.Machine

/-- BLIT_UNPREMUL (R230): empty, it completes at once (R225); else RUN begins (R226). -/
def execBlitUnpremul (s : State) : Host.Outcome State Fault Refusal :=
  s.request .blitUnpremul State.startBlit

/-- BLIT_PREMUL (R231): the same acceptance, with the other pixel function in RUN. -/
def execBlitPremul (s : State) : Host.Outcome State Fault Refusal :=
  s.request .blitPremul State.startBlit

end Sys2Proof.Machine
end

