-- ==== Sys2Proof/Machine/Control.lean ====
section
/-!
DEFINITION. The control command: NOP (45_control_commands.md R255).
-/

namespace Sys2Proof.Machine

/-- NOP (R255): the net effect of an accepted NOP is DONE = 1. -/
def execNop (s : State) : Host.Outcome State Fault Refusal :=
  s.request .nop State.complete

end Sys2Proof.Machine
end

