-- ==== Sys2Proof/Machine/Pix.lean ====
section
/-!
DEFINITION. The single-pixel commands: PIX_UNPREMUL (R147), PIX_PREMUL (R175), RECIP_READ (R125). Each reads PIX_IN in
the accepting step (R252), writes PIX_OUT (R32) and completes there (R253).
-/

namespace Sys2Proof.Machine

/-- PIX_UNPREMUL (R147): `PIX_OUT <- UnpremulPixel(PIX_IN, L.clamp)`. -/
def execPixUnpremul (s : State) : Host.Outcome State Fault Refusal :=
  s.request .pixUnpremul
    (fun t => (t.setPixOut (unpremulPixel t.params.alpha t.pixIn t.engine.latch.clamp)).complete)

/-- PIX_PREMUL (R175): `PIX_OUT <- PremulPixel(PIX_IN)`. -/
def execPixPremul (s : State) : Host.Outcome State Fault Refusal :=
  s.request .pixPremul (fun t => (t.setPixOut (premulPixel t.params.alpha t.pixIn)).complete)

/-- RECIP_READ (R125): `PIX_OUT <- zext_32(RECIP[PIX_IN[7:0]])`. -/
def execRecipRead (s : State) : Host.Outcome State Fault Refusal :=
  s.request .recipRead (fun t => (t.setPixOut ((recip (t.pixIn.setWidth 8)).setWidth 32)).complete)

end Sys2Proof.Machine
end

