-- ==== Sys2Proof/Machine/Dispatch.lean ====
section
/-!
DEFINITION. The meaning of each command: one arm per constructor of Instr, one direct call of its meaning.
-/

namespace Sys2Proof.Machine

-- What a write of the command's word to CMD does, in the step of that write (R252).
def exec (i : Instr) (s : State) : Host.Outcome State Fault Refusal :=
  match i with
  | .nop => Sys2Proof.Machine.execNop s
  | .blitUnpremul => Sys2Proof.Machine.execBlitUnpremul s
  | .blitPremul => Sys2Proof.Machine.execBlitPremul s
  | .pixUnpremul => Sys2Proof.Machine.execPixUnpremul s
  | .pixPremul => Sys2Proof.Machine.execPixPremul s
  | .recipRead => Sys2Proof.Machine.execRecipRead s

end Sys2Proof.Machine
end

