-- ==== Sys2Proof/Machine/HostBus.lean ====
section
/-!
DEFINITION. The host's side of the bus: register accesses (R21, R250, R251), command requests (R252, R254), accesses to
system memory with their effect on a running command (R72, R74, R80), polling (R97, R257), and the reset input (R300).
-/

namespace Sys2Proof.Machine

/-- A host write of `w` to CMD (R252, R254): the decoded command, or a reserved word (R95). -/
def commandWrite (w : Word) (s : State) : Host.Outcome State Fault Refusal :=
  match decodeWord w with
  | .ok i => exec i s
  | .error _ => .next s.rejectReserved

/-- A 32-bit host write at a window offset (R251); a reserved offset ignores it (R21). -/
def writeOffset (off : Nat) (v : Word) (s : State) : Host.Outcome State Fault Refusal :=
  match Reg.atOffset off with
  | some .cmd => commandWrite v s
  | some r => .next (s.writeReg r v)
  | none => .next s

/-- Whether a host access touches the register window. -/
def touchesWindow (P : Params) (a : Word) (size : AccessSize) : Bool := (span a size.bytes).any P.inWindow

/-- Whether a host access is one the window defines: 32 bits at a 4-byte-aligned offset (R21). -/
def definedWindowAccess (P : Params) (a : Word) (size : AccessSize) : Bool :=
  size == .word && P.inWindow a && P.windowOffset a % 4 == 0

/-- Why a host access to memory is not served, if so: the platform has nothing there that serves it, or a device of its
own (log 10). -/
def hostStop (P : Params) (isWrite : Bool) (a : Word) (size : AccessSize) :
    Option (Host.Outcome State Fault Refusal) :=
  (span a size.bytes).findSome? (fun b =>
    match P.kindAt b with
    | none => none
    | some .unmapped => some (.fault (.hostNoMemory b))
    | some .readOnly => if isWrite then some (.fault (.hostNoMemory b)) else none
    | some .writeOnly => if isWrite then none else some (.fault (.hostNoMemory b))
    | some .device => some (.refused (.foreignDevice b)))

/-- Whether a host write to memory touches a word of `SF ∪ DF` of a command in RUN (R74(a)). -/
def State.disturbs (s : State) (a : Word) (size : AccessSize) : Bool :=
  s.engine.phase == .run &&
    (span a size.bytes).any (fun b => s.engine.latch.inSrc b || s.engine.latch.inDst b)

/-- A host write to system memory (R72, R80), noted when it touches the footprints of a command in RUN (R74(a)). -/
def State.hostStore (s : State) (a : Word) (size : AccessSize) (data : BusData) : State :=
  { s with
    mem := Memory.writeBytes s.mem a size.bytes data
    engine := { s.engine with interfered := s.engine.interfered || s.disturbs a size } }

/-- What a host reads in the destination word of pixel `(r, i)` during RUN. In a well-defined command that no host write
has touched it is a race of the value at acceptance and the final value (R74(b), R229; log 6); in any other the spec
states no value: free (log 7). -/
def State.racingWord (s : State) (r i : Nat) : Word :=
  if s.engine.Defined then
    if Config.raceTakesFinal s.draws (s.engine.latch.dstAt r i) then
      pixelFunction s.params.alpha s.engine.latch (Memory.readWord s.engine.mem0 (s.engine.latch.srcAt r i))
    else Memory.readWord s.engine.mem0 (s.engine.latch.dstAt r i)
  else Config.anyValue s.draws (s.engine.latch.dstAt r i)

/-- The destination pixel of a command in RUN that byte `b` belongs to (R74(b)). -/
def State.racingPixel (s : State) (b : Word) : Option (Nat × Nat) :=
  match s.engine.phase with
  | .idle => none
  | .run => s.engine.latch.dstPixel b

/-- One byte as a host reads it (R74). -/
def State.hostByte (s : State) (b : Word) : Byte :=
  match s.racingPixel b with
  | none => Memory.read s.mem b.toNat
  | some p => byteOfWord (s.racingWord p.1 p.2) (b - s.engine.latch.dstAt p.1 p.2).toNat

/-- The value a host read of memory returns: little-endian (R62), zero-extended. -/
def State.hostLoad (s : State) (a : Word) (size : AccessSize) : BusData :=
  (List.range size.bytes).foldl
    (fun v k => v ||| ((s.hostByte (a + BitVec.ofNat 32 k)).setWidth 64 <<< (8 * k))) 0#64

/-- A host read that returned `v`: recorded (log 21), and nothing of the block changes (R250). -/
def State.afterRead (s : State) (v : BusData) : State := { s with reads := v :: s.reads }

/-- A host read of memory spends a draw when it meets a destination word of a command in RUN. -/
def State.spendDraw (s : State) (a : Word) (size : AccessSize) : State :=
  if (span a size.bytes).any (fun b => (s.racingPixel b).isSome) then { s with draws := s.draws + 1 } else s

/-- A host read at a bus address; `after` is what the host does with the value (R97: RD, MR, POLL). -/
def hostRead (a : Word) (size : AccessSize) (after : BusData → State → State) (s : State) :
    Host.Outcome State Fault Refusal :=
  if touchesWindow s.params a size then
    if definedWindowAccess s.params a size then
      let v : BusData := (s.readOffset (s.params.windowOffset a)).setWidth 64
      .next (after v (s.afterRead v))
    else .refused (.windowAccess a)
  else
    match hostStop s.params false a size with
    | some o => o
    | none => .next (after (s.hostLoad a size) ((s.spendDraw a size).afterRead (s.hostLoad a size)))

/-- A host write at a bus address. -/
def hostWrite (a : Word) (size : AccessSize) (data : BusData) (s : State) : Host.Outcome State Fault Refusal :=
  if touchesWindow s.params a size then
    if definedWindowAccess s.params a size then writeOffset (s.params.windowOffset a) (data.setWidth 32) s
    else .refused (.windowAccess a)
  else
    match hostStop s.params true a size with
    | some o => o
    | none => .next (s.hostStore a size data)

/-- POLL (R97): the read is repeated until `(v and mask) = value`. DESIGN CHOICE (log 27), unsafe: it is repeated as the
very next access of `host`, so no other host's access (R283) and no reset (R300) of the list comes between two reads of one
POLL, though engine steps do; the spec does not say so. A list of single reads has no such limit. -/
def pollAgain (a mask value : Word) (v : BusData) (s : State) : State :=
  if v.setWidth 32 &&& mask = value then s else { s with host := .poll a mask value :: s.host }

/-- One step of the world outside (R250, R251, R257, R300); the operation has left `host` already. -/
def hostStep (op : HostOp) (s : State) : Host.Outcome State Fault Refusal :=
  match op with
  | .write a size data => hostWrite a size data s
  | .read a size => hostRead a size (fun _ t => t) s
  | .poll a mask value => hostRead a .word (pollAgain a mask value) s
  | .reset => .next s.resetBlock

/-- The host's coming access is a write of the command word `w` to CMD, and no command runs: the very next step is that
write, and it is not turned away (log 13). -/
def State.withCommand (s : State) (w : Word) : State :=
  { s with
    host := .write (s.params.regAddr .cmd) .word (w.setWidth 64) :: s.host
    status := { s.status with busy := false }
    engine := { s.engine with phase := .idle } }

end Sys2Proof.Machine
end

