-- ==== Sys2Proof/Machine/Schedule.lean ====
section
/-!
DEFINITION. The interleaving of the two agents (R11, R258): each step is one step of the host or of the engine.
-/

namespace Sys2Proof.Machine

/-- Who moves (R258): in IDLE the engine takes no step; in RUN it always can. Where both can, `turns` says who; where it
has run out, the engine (log 1), so that every run is weakly fair. None: nothing is enabled. -/
def State.nextAgent (s : State) : Option Agent :=
  match s.engine.phase, s.host with
  | .idle, [] => none
  | .idle, _ :: _ => some .host
  | .run, [] => some .engine
  | .run, _ :: _ => some (s.turns.headD .engine)

/-- A turn is spent when both agents can move. -/
def State.spendTurn (s : State) : State :=
  match s.engine.phase, s.host with
  | .run, _ :: _ => { s with turns := s.turns.tail }
  | .run, [] => s
  | .idle, _ => s

/-- The host's coming access leaves `host` as it is made. -/
def State.takeHost (s : State) (rest : List HostOp) : State := { s with host := rest }

/-- One step of the machine. With nothing enabled nothing happens (log 23). -/
def takeTurn (s : State) : Host.Outcome State Fault Refusal :=
  match s.nextAgent with
  | none => .next s
  | some .engine => engineStep s.spendTurn
  | some .host =>
    match s.host with
    | [] => .next s
    | op :: rest => hostStep op (s.spendTurn.takeHost rest)

end Sys2Proof.Machine
end

