-- ==== Sys2Proof/Machine/Step.lean ====
section
/-!
DEFINITION. The step function of the machine, and the state in which the next step runs a given command word.
-/

namespace Sys2Proof.Machine

/-- One step: one host step or one engine step (R258). -/
def step (s : State) : Host.Outcome State Fault Refusal := takeTurn s

/-- `s` with the command word `w` of `nbits` bits as the host's very next CMD write (log 13): the block fetches nothing,
a command arrives as that write (R26, R77). -/
def State.withFetchWord (s : State) (nbits w : Nat) : State := s.withCommand (tableWord nbits w)

end Sys2Proof.Machine
end

