-- ==== Sys2Proof/Machine/Assembler.lean ====
section
/-!
DEFINITION. The assembler notation as host bus transactions: the encoding of WR, RD, POLL, MW and MR (R97) and the
expansions of the pseudo-instructions (R98). A program is the list of its statements.
-/

namespace Sys2Proof

/-- `WR REG, v` (R97): the bus write at `REG_BASE + offset(REG)`. -/
def Params.wr (P : Params) (r : Reg) (v : Word) : HostOp := .write (P.regAddr r) .word (v.setWidth 64)

/-- `RD REG` (R97). -/
def Params.rd (P : Params) (r : Reg) : HostOp := .read (P.regAddr r) .word

/-- `WAIT` (R98): `POLL STATUS, 0x1, 0x0`. -/
def Params.wait (P : Params) : HostOp := .poll (P.regAddr .status) 0x1#32 0x0#32

/-- `CMD m` (R98): `WR CMD, word(m)`. -/
def Params.cmd (P : Params) (i : Instr) : HostOp := P.wr .cmd (encodeWord i)

/-- `BLIT_AND_... d, ds, s, ss, w, h` (R98), for either command. -/
def Params.blit (P : Params) (i : Instr) (d ds s ss w h : Word) : List HostOp :=
  [P.wr .dstAddr d, P.wr .dstStride ds, P.wr .srcAddr s, P.wr .srcStride ss, P.wr .width w, P.wr .height h,
   P.cmd i, P.wait]

/-- `..._PIXEL p -> n` and `RECIP a -> n` (R98), for each single-pixel command. -/
def Params.pixel (P : Params) (i : Instr) (p : Word) : List HostOp := [P.wr .pixIn p, P.cmd i, P.rd .pixOut]

/-- The bus transactions of one statement (R97, R98). -/
def Stmt.expand (P : Params) : Stmt → List HostOp
  | .wr r v => [P.wr r v]
  | .rd r => [P.rd r]
  | .poll r mask value => [.poll (P.regAddr r) mask value]
  | .mw a v => [.write a .word (v.setWidth 64)]
  | .mr a => [.read a .word]
  | .cmd i => [P.cmd i]
  | .wait => [P.wait]
  | .clrstat => [P.wr .status 0xE#32]
  | .clamp on => [P.wr .ctrl (if on then 1#32 else 0#32)]
  | .blitAndUnpremultiply d ds s ss w h => P.blit .blitUnpremul d ds s ss w h
  | .blitAndPremultiply d ds s ss w h => P.blit .blitPremul d ds s ss w h
  | .unpremulPixel p => P.pixel .pixUnpremul p
  | .premulPixel p => P.pixel .pixPremul p
  | .recip a => P.pixel .recipRead a

/-- The bus transactions of a program (R97). -/
def expandProgram (P : Params) (prog : List Stmt) : List HostOp := prog.flatMap (Stmt.expand P)

/-- The machine with a host program still to come, after what the host has to do already. -/
def Machine.State.withProgram (s : Machine.State) (prog : List Stmt) : Machine.State :=
  { s with host := s.host ++ expandProgram s.params prog }

end Sys2Proof
end

