-- ==== Sys2Proof/Safety.lean ====
section
/-!
DEFINITION. What the statements speak of: the invariant of the machine, the progress of a running BLIT towards the result
of R229, the memory preconditions of a command (R61, R64, R67), and what the trace of a command shows (R81).
-/

namespace Sys2Proof.Machine

/-- A multiple of 4 (R63). -/
abbrev Aligned (w : Word) : Prop := w.toNat % 4 = 0

/-- The command is one of the two that enter RUN (R31). -/
def isBlit : Instr → Bool
  | .nop => false
  | .blitUnpremul => true
  | .blitPremul => true
  | .pixUnpremul => false
  | .pixPremul => false
  | .recipRead => false

/-- Latched addresses and strides are multiples of 4: they are copies of registers whose bits 1:0 are hardwired 0 (R27,
R28, R33). -/
abbrev Latch.AlignedOperands (l : Latch) : Prop :=
  Aligned l.src ∧ Aligned l.dst ∧ l.sstride % 4 = 0 ∧ l.dstride % 4 = 0

/-- Where the engine can stand in a row of `L.W` pixels (R195). -/
def Engine.placeOk (e : Engine) : Bool :=
  match e.point with
  | .rowStart => decide (e.i = 0 ∧ e.r = 0)
  | .gotP0 => decide (e.i + 2 ≤ e.latch.width.toNat)
  | .gotP1 => decide (e.i + 2 ≤ e.latch.width.toNat)
  | .putQ0 => decide (e.i + 2 ≤ e.latch.width.toNat)
  | .putQ1 => decide (e.i + 2 ≤ e.latch.width.toNat)
  | .gotTail => decide (e.i + 1 = e.latch.width.toNat)
  | .putTail => decide (e.i + 1 = e.latch.width.toNat)
  | .gotT => decide (e.i < e.latch.width.toNat ∧ e.rd ≠ .probe)
  | .putT => decide (e.i < e.latch.width.toNat ∧ e.rd ≠ .probe)

/-- An engine in RUN: a BLIT with `L.W > 0` and `L.H > 0` (R31), a row of the rectangle (R30), a place in the row. -/
abbrev Engine.Running (e : Engine) : Prop :=
  isBlit e.latch.op = true ∧ 0 < e.latch.width ∧ 0 < e.latch.height ∧ e.r < e.latch.height.toNat ∧
    e.placeOk = true ∧ Memory.wf e.mem0

/-- The bits hardwired to 0 in the four address and stride registers (R27, R28). -/
abbrev State.HardwiredLow (s : State) : Prop :=
  Aligned s.srcAddr ∧ Aligned s.srcStride ∧ Aligned s.dstAddr ∧ Aligned s.dstStride

/-- The invariant of the machine: memory keeps its canonical form; hardwired bits read 0 (R27, R28) and so do those of `L`
(R33); `BUSY = 1` exactly when `phase = RUN` (R31); in RUN the engine is at a place of the row procedure (R30, R195). -/
abbrev State.Inv (s : State) : Prop :=
  Memory.wf s.mem ∧ s.HardwiredLow ∧ s.engine.latch.AlignedOperands ∧
    (s.status.busy = true ↔ s.engine.phase = .run) ∧ (s.engine.phase = .run → s.engine.Running)

/-- How many pixels of the current row have been written (R195). -/
def Engine.writtenInRow (e : Engine) : Nat :=
  match e.point with
  | .rowStart => e.i
  | .gotP0 => e.i
  | .gotP1 => e.i
  | .putQ0 => e.i + 1
  | .putQ1 => e.i + 2
  | .gotTail => e.i
  | .putTail => e.i + 1
  | .gotT => e.i
  | .putT => e.i + 1

/-- Whether the destination of a pixel has been written: rows in ascending order (R222), pixels in ascending order. -/
abbrev Engine.Written (e : Engine) (p : Nat × Nat) : Prop := p.1 < e.r ∨ (p.1 = e.r ∧ p.2 < e.writtenInRow)

/-- The source word of pixel `k` of the current row as it was at acceptance. -/
def Engine.src0 (e : Engine) (k : Nat) : Word := Memory.readWord e.mem0 (e.latch.srcAt e.r k)

/-- What the run detector's registers hold at each place of R195, in terms of the source words at acceptance. -/
def Engine.RegistersHold (A : AlphaPos) (e : Engine) : Prop :=
  match e.point with
  | .rowStart => True
  | .gotP0 => e.p0 = e.src0 e.i
  | .gotP1 => e.p0 = e.src0 e.i ∧ e.p1 = e.src0 (e.i + 1)
  | .putQ0 => e.p0 = e.src0 e.i ∧ e.p1 = e.src0 (e.i + 1) ∧ e.q0 = pixelFunction A e.latch e.p0 ∧
      e.q1 = pixelFunction A e.latch e.p1
  | .putQ1 => e.p0 = e.src0 e.i ∧ e.p1 = e.src0 (e.i + 1) ∧ e.q0 = pixelFunction A e.latch e.p0 ∧
      e.q1 = pixelFunction A e.latch e.p1
  | .gotTail => e.p0 = e.src0 e.i
  | .putTail => True
  | .gotT => e.t = e.src0 e.i ∧ (e.rd = .constantRun → e.q0 = pixelFunction A e.latch e.p0)
  | .putT => e.rd = .constantRun → e.q0 = pixelFunction A e.latch e.p0

/-- The final value of a pixel's destination word: `F(M0[S(r, i)])` (R229). -/
def State.finalWord (s : State) (p : Nat × Nat) : Word :=
  pixelFunction s.params.alpha s.engine.latch (Memory.readWord s.engine.mem0 (s.engine.latch.srcAt p.1 p.2))

/-- The progress of a running BLIT towards R229: every pixel written so far holds its final value, the source of every other
pixel is as it was at acceptance, and the run detector's registers hold what R195 says. -/
def State.Progress (s : State) : Prop :=
  (∀ p ∈ s.engine.latch.pixels, s.engine.Written p →
      Memory.readWord s.mem (s.engine.latch.dstAt p.1 p.2) = s.finalWord p) ∧
    (∀ p ∈ s.engine.latch.pixels, ¬ s.engine.Written p →
      Memory.readWord s.mem (s.engine.latch.srcAt p.1 p.2) =
        Memory.readWord s.engine.mem0 (s.engine.latch.srcAt p.1 p.2)) ∧
    s.engine.RegistersHold s.params.alpha

/-- Progress, asked of a command in RUN whose result R229 gives: well-defined, and touched by no host write. -/
def State.ProgressInv (s : State) : Prop := s.engine.phase = .run → s.engine.Defined → s.Progress

/-- The memory preconditions of a command (R61, R64, R67): every word of SF can be read, every word of DF written. -/
abbrev Latch.UsableOn (l : Latch) (P : Params) : Prop :=
  (∀ w ∈ l.srcFootprint, P.engineReadStop w = none) ∧ ∀ w ∈ l.dstFootprint, P.engineWriteStop w = none

/-- The address of a write in the trace. -/
def Access.writeAddr : Access → Option Word
  | .read _ _ => none
  | .write a _ => some a

/-- The address of a read in the trace. -/
def Access.readAddr : Access → Option Word
  | .read a _ => some a
  | .write _ _ => none

/-- The addresses the command has written, in order of time (R81). -/
def State.writesInOrder (s : State) : List Word := s.trace.reverse.filterMap Access.writeAddr

/-- The addresses the command has read, in order of time (R81). -/
def State.readsInOrder (s : State) : List Word := s.trace.reverse.filterMap Access.readAddr

/-- In RUN the writes made so far are those of the pixels before the engine's place, each once and in order (R81, R222). -/
abbrev State.WritesInv (s : State) : Prop :=
  s.engine.phase = .run →
    s.writesInOrder =
      s.engine.latch.dstFootprint.take (s.engine.r * s.engine.latch.width.toNat + s.engine.writtenInRow)

/-! The spec's closed formulas, as the statements name them. -/

/-- `R(α)` of R120: 0 for 0, else `ceil_div(255 * 2^16, α)`. -/
def ceilReciprocal (a : Nat) : Nat := if a = 0 then 0 else (16711680 + a - 1) / a

/-- `round(x / 255)`: the nearest integer; no tie occurs for a natural `x` (R174 item 7). -/
def roundOver255 (x : Nat) : Nat := (2 * x + 255) / 510

/-- The 24 pairs of R174 item 7 with their results. -/
def premulShortfalls : List ((Nat × Nat) × Nat) :=
  [((152, 229), 136), ((169, 212), 140), ((173, 241), 163), ((188, 196), 144), ((191, 253), 189), ((194, 232), 176),
   ((196, 188), 144), ((197, 244), 188), ((208, 236), 192), ((212, 169), 140), ((214, 227), 190), ((223, 251), 219),
   ((226, 233), 206), ((227, 214), 190), ((229, 152), 136), ((232, 194), 176), ((233, 226), 206), ((236, 208), 192),
   ((239, 247), 231), ((241, 173), 163), ((244, 197), 188), ((247, 239), 231), ((251, 223), 219), ((253, 191), 189)]

/-- The 36 values of R122 at which the table's division is exact. -/
def exactReciprocals : List Nat :=
  [1, 2, 3, 4, 5, 6, 8, 10, 12, 15, 16, 17, 20, 24, 30, 32, 34, 40, 48, 51, 60, 64, 68, 80, 85, 96, 102, 120, 128, 136,
   160, 170, 192, 204, 240, 255]

/-- The error of a round trip through both directions in one channel (R177). -/
def roundTripError (c a : Byte) (clamp : Bool) : Nat :=
  ((unpremulChannel (premulChannel c a) a clamp).toNat - (c.toNat : Int)).natAbs

end Sys2Proof.Machine
end

