-- ==== Sys2Proof/Certificates/Slice0/Obligations.lean ====
section
/-!
DEFINITION. The statements about the machine, for the provers. Each docstring names the rule of spec/ it formalises.
-/

open Sys2Proof Sys2Proof.Machine

/-! ## Encoding -/

/-- R90 to R92: over any bytes, the decoder reads exactly what the encoder writes, and hands the rest back. -/
def Obligations.DecodeReadsExactlyWhatEncodeWrites : Prop :=
  ∀ (bs : List Byte) (i : Instr) (rest : List Byte),
    decode bs = .ok (i, rest) ↔ i.wellFormed = true ∧ bs = encode i ++ rest

/-- R92: the six command words, bit by bit. -/
def Obligations.OpcodeMapWordsDecode : Prop :=
  decodeWord 0b00000000000000000000000000000000#32 = .ok .nop ∧
    decodeWord 0b00000000000000000000000000000001#32 = .ok .blitUnpremul ∧
    decodeWord 0b00000000000000000000000000000010#32 = .ok .blitPremul ∧
    decodeWord 0b00000000000000000000000000000011#32 = .ok .pixUnpremul ∧
    decodeWord 0b00000000000000000000000000000100#32 = .ok .pixPremul ∧
    decodeWord 0b00000000000000000000000000000101#32 = .ok .recipRead

/-- R95: a word is reserved exactly when OP is in 6..15 or MBZ ≠ 0; its CMD write while idle sets ERR_OPCODE and changes
nothing else, and while busy sets ERR_BUSY and changes nothing else. -/
def Obligations.ReservedWordSetsErrOpcodeOnly : Prop :=
  ∀ w : Word,
    ((6 ≤ w.toNat % 16 ∨ w.toNat / 16 ≠ 0) ↔ ∀ i, decodeWord w ≠ .ok i) ∧
    ((6 ≤ w.toNat % 16 ∨ w.toNat / 16 ≠ 0) → ∀ s : State,
      (s.status.busy = false → hostStep (.write (s.params.regAddr .cmd) .word (w.setWidth 64)) s =
        .next { s with status := { s.status with errOpcode := true } }) ∧
      (s.status.busy = true → hostStep (.write (s.params.regAddr .cmd) .word (w.setWidth 64)) s =
        .next { s with status := { s.status with errBusy := true } }))

/-! ## The step and the command protocol -/

/-- R252, R258: where the host moves next and its access is a CMD write whose bytes decode to a command, the step is that
command's meaning, once the access has left `host` (and a turn has been spent where both agents could move). The second
clause says the same of the state in which a given command word comes next (log 13). -/
def Obligations.StepRunsDecodedCommand : Prop :=
  (∀ (s : State) (i : Instr) (d : BusData) (rest : List HostOp),
    s.nextAgent = some .host → s.host = .write (s.params.regAddr .cmd) .word d :: rest →
    decode (bytesOfWord (d.setWidth 32)) = .ok (i, []) → i.wellFormed = true →
    step s = exec i (s.spendTurn.takeHost rest)) ∧
  ∀ (s : State) (i : Instr),
    step (s.withFetchWord 32 (encodeWord i).toNat) =
      exec i { s with
        status := { s.status with busy := false }
        engine := { s.engine with phase := .idle } }

/-- R255: NOP sets DONE; `L` is latched; nothing else changes. While busy it sets ERR_BUSY instead. -/
def Obligations.NopSetsDoneOnly : Prop :=
  decodeWord 0x00000000#32 = .ok .nop ∧
  ∀ s : State,
    (s.status.busy = false → exec .nop s = .next { s with
      status := { s.status with done := true }
      engine := { s.engine with latch := s.latchFor .nop } }) ∧
    (s.status.busy = true → exec .nop s = .next { s with status := { s.status with errBusy := true } })

/-- R125 with R120: RECIP_READ writes the ceiling reciprocal of `PIX_IN[7:0]`, zero-extended, to PIX_OUT and sets DONE;
`L` is latched; nothing else changes. While busy it sets ERR_BUSY instead. -/
def Obligations.RecipReadWritesCeilingReciprocal : Prop :=
  decodeWord 0x00000005#32 = .ok .recipRead ∧
  ∀ s : State,
    (s.status.busy = false → exec .recipRead s = .next { s with
      pixOut := BitVec.ofNat 32 (ceilReciprocal (s.pixIn.toNat % 256))
      status := { s.status with done := true }
      engine := { s.engine with latch := s.latchFor .recipRead } }) ∧
    (s.status.busy = true → exec .recipRead s = .next { s with status := { s.status with errBusy := true } })

/-- R147: PIX_UNPREMUL writes UnpremulPixel of PIX_IN under CLAMP_EN to PIX_OUT and sets DONE; `L` is latched; nothing else
changes; alpha 0 gives colour 0, alpha 255 returns PIX_IN, a superluminant channel gives 255. While busy it sets ERR_BUSY
instead. -/
def Obligations.PixUnpremulWritesPixOut : Prop :=
  decodeWord 0x00000003#32 = .ok .pixUnpremul ∧
  (∀ s : State,
    (s.status.busy = false → exec .pixUnpremul s = .next { s with
      pixOut := unpremulPixel s.params.alpha s.pixIn s.ctrl.clampEn
      status := { s.status with done := true }
      engine := { s.engine with latch := s.latchFor .pixUnpremul } }) ∧
    (s.status.busy = true → exec .pixUnpremul s = .next { s with status := { s.status with errBusy := true } })) ∧
  (∀ (A : AlphaPos) (p : Word) (clamp : Bool),
    (A.alpha p = 0#8 → unpremulPixel A p clamp = 0#32) ∧
    (A.alpha p = 255#8 → unpremulPixel A p clamp = p) ∧
    (A.alpha p ≠ 0#8 → A.alpha p < A.red p → A.red (unpremulPixel A p clamp) = 255#8) ∧
    (A.alpha p ≠ 0#8 → A.alpha p < A.green p → A.green (unpremulPixel A p clamp) = 255#8) ∧
    (A.alpha p ≠ 0#8 → A.alpha p < A.blue p → A.blue (unpremulPixel A p clamp) = 255#8)) ∧
  ∀ clamp, unpremulPixel .apos3 0x80402010#32 clamp = 0x807F3F1F#32

/-- R175: PIX_PREMUL writes PremulPixel of PIX_IN to PIX_OUT and sets DONE; `L` is latched; nothing else changes; alpha 0
gives colour 0, alpha 255 returns PIX_IN, the 24 pairs of R174 round down. While busy it sets ERR_BUSY instead. -/
def Obligations.PixPremulWritesPixOut : Prop :=
  decodeWord 0x00000004#32 = .ok .pixPremul ∧
  (∀ s : State,
    (s.status.busy = false → exec .pixPremul s = .next { s with
      pixOut := premulPixel s.params.alpha s.pixIn
      status := { s.status with done := true }
      engine := { s.engine with latch := s.latchFor .pixPremul } }) ∧
    (s.status.busy = true → exec .pixPremul s = .next { s with status := { s.status with errBusy := true } })) ∧
  (∀ (A : AlphaPos) (p : Word),
    (A.alpha p = 0#8 → premulPixel A p = 0#32) ∧ (A.alpha p = 255#8 → premulPixel A p = p)) ∧
  (∀ x ∈ premulShortfalls, (premulChannel (BitVec.ofNat 8 x.1.1) (BitVec.ofNat 8 x.1.2)).toNat = x.2) ∧
  premulPixel .apos3 0x807F3F1F#32 = 0x80402010#32 ∧ premulPixel .apos3 0x98E5D4C1#32 = 0x98887E73#32

/-- R225: either BLIT with a width or height that is not positive completes in the accepting step: DONE set, BUSY still 0,
no error bit, no memory access. -/
def Obligations.EmptyBlitCompletesAtOnce : Prop :=
  ∀ (i : Instr) (s : State), i = .blitUnpremul ∨ i = .blitPremul → s.status.busy = false →
    s.width.toInt ≤ 0 ∨ s.height.toInt ≤ 0 →
    exec i s = .next { s with
      status := { s.status with done := true }
      engine := { s.engine with latch := s.latchFor i } }

/-- R226: either BLIT with positive width and height starts: RUN, BUSY, `r = 0`, DONE cleared by the acceptance, no memory
access; `L` is latched; every register but STATUS, the error bits and the run detector's registers are unchanged. -/
def Obligations.NonEmptyBlitStarts : Prop :=
  ∀ (i : Instr) (s : State), i = .blitUnpremul ∨ i = .blitPremul → s.status.busy = false →
    0 < s.width.toInt → 0 < s.height.toInt →
    ∃ t, exec i s = .next t ∧ t.engine.phase = .run ∧ t.status.busy = true ∧ t.engine.r = 0 ∧ t.mem = s.mem ∧
      t.trace = [] ∧ t.status.done = false ∧ t.status.errOpcode = s.status.errOpcode ∧
      t.status.errBusy = s.status.errBusy ∧ t.engine.latch = s.latchFor i ∧
      (∀ r, r ≠ .status → t.regValue r = s.regValue r) ∧
      t.engine.p0 = s.engine.p0 ∧ t.engine.p1 = s.engine.p1 ∧ t.engine.q0 = s.engine.q0 ∧
      t.engine.accu = s.engine.accu ∧ t.engine.diff = s.engine.diff ∧
      t.params = s.params ∧ t.host = s.host ∧ t.turns = s.turns ∧ t.reads = s.reads ∧ t.draws = s.draws

/-- R254: a CMD write while BUSY = 1 is dropped whatever word it holds: ERR_BUSY is set and nothing else changes, not even
the running command. -/
def Obligations.CommandWriteWhileBusyIsDropped : Prop :=
  ∀ (s : State) (d : BusData), s.status.busy = true →
    hostStep (.write (s.params.regAddr .cmd) .word d) s =
      .next { s with status := { s.status with errBusy := true } }

/-- R33: an accepted command latches its operands with the signed values of strides, width and height; from then on the
engine's steps do not depend on the registers: a host write to any of the seven parameter registers commutes with them. -/
def Obligations.AcceptanceLatchesOperands : Prop :=
  (∀ (i : Instr) (s t : State), s.status.busy = false → exec i s = .next t →
    t.engine.latch =
      { op := i, src := s.srcAddr, sstride := s.srcStride.toInt, dst := s.dstAddr, dstride := s.dstStride.toInt,
        width := s.width.toInt, height := s.height.toInt, clamp := s.ctrl.clampEn }) ∧
  ∀ (s t : State) (r : Reg) (v : Word),
    r ∈ [Reg.srcAddr, .srcStride, .dstAddr, .dstStride, .width, .height, .ctrl] →
    engineStep s = .next t → engineStep (s.writeReg r v) = .next (t.writeReg r v)

/-- What no command changes: parameters, CTRL, the eight host-writable registers, ERR_OPCODE, the host's side, the run
detector's registers, every byte of memory; and PIX_OUT, ERR_BUSY and the trace but for the commands and the case that the
spec names (R32, R93, R95, R223, R254). -/
def Obligations.CommandFrame : Prop :=
  ∀ (i : Instr) (s t : State), exec i s = .next t →
    t.params = s.params ∧ t.ctrl = s.ctrl ∧ t.srcAddr = s.srcAddr ∧ t.srcStride = s.srcStride ∧
    t.dstAddr = s.dstAddr ∧ t.dstStride = s.dstStride ∧ t.width = s.width ∧ t.height = s.height ∧ t.pixIn = s.pixIn ∧
    t.status.errOpcode = s.status.errOpcode ∧ (s.status.busy = false → t.status.errBusy = s.status.errBusy) ∧
    (s.status.busy = true → t.status.done = s.status.done ∧ t.status.busy = true ∧ t.engine = s.engine) ∧
    t.host = s.host ∧ t.turns = s.turns ∧ t.reads = s.reads ∧ t.draws = s.draws ∧
    t.engine.p0 = s.engine.p0 ∧ t.engine.p1 = s.engine.p1 ∧ t.engine.q0 = s.engine.q0 ∧ t.engine.q1 = s.engine.q1 ∧
    t.engine.t = s.engine.t ∧ t.engine.accu = s.engine.accu ∧ t.engine.diff = s.engine.diff ∧
    (i = .nop ∨ i = .blitUnpremul ∨ i = .blitPremul → t.pixOut = s.pixOut) ∧
    (i = .nop ∨ i = .pixUnpremul ∨ i = .pixPremul ∨ i = .recipRead → t.trace = s.trace ∧
      t.engine.phase = s.engine.phase) ∧
    ∀ a, Memory.read t.mem a = Memory.read s.mem a

/-! ## Registers, STATUS, reset -/

/-- R38: the registers right after reset, for every build. -/
def Obligations.ResetRegisterValues : Prop :=
  (∀ (P : Params) (r : Reg), (State.resetWith P).regValue r =
    if r = .config then 0x00001000#32 ||| BitVec.ofNat 32 (P.alpha.alphaOffset / 8) else 0#32) ∧
  (∀ P, (State.resetWith P).engine.phase = .idle) ∧ State.reset.mem = []

/-- R300, R304: the reset input, as one step, sets every register to its reset value and the phase to IDLE from any state;
memory is unchanged where no command runs, and outside the running command's DF where one does. -/
def Obligations.ResetStepSetsResetValues : Prop :=
  ∀ s : State, ∃ t, hostStep .reset s = .next t ∧
    (∀ r, t.regValue r = if r = .config then s.regValue .config else 0#32) ∧ t.engine.phase = .idle ∧
    (s.engine.phase = .idle → ∀ a, Memory.read t.mem a = Memory.read s.mem a) ∧
    ∀ b : Word, s.engine.latch.inDst b = false → Memory.read t.mem b.toNat = Memory.read s.mem b.toNat

/-- R301: reset during RUN abandons the command: every writable word of its DF holds a free value of its own, every byte
outside DF is unchanged, DONE is not set, the engine makes no further access. -/
def Obligations.ResetDuringRunDrawsDestination : Prop :=
  ∀ s : State, s.Inv → s.engine.phase = .run → ∃ t, hostStep .reset s = .next t ∧
    (∀ w ∈ s.engine.latch.dstFootprint, s.params.engineWriteStop w = none →
      Memory.readWord t.mem w = Config.anyValue s.draws w) ∧
    (∀ b : Word, s.engine.latch.inDst b = false → Memory.read t.mem b.toNat = Memory.read s.mem b.toNat) ∧
    t.status.done = false ∧ t.engine.phase = .idle ∧ t.trace = s.trace

/-- R251, R256, R24: what each register reads after a host write of `v` to it, and that no other register's value
changes, nor the engine, nor memory. CMD is a command request and stands in other statements. -/
def Obligations.RegisterWriteThenRead : Prop :=
  ∀ (s : State) (r : Reg) (d : BusData), r ≠ .cmd →
    ∃ t, hostStep (.write (s.params.regAddr r) .word d) s = .next t ∧
      t.regValue r =
        (match r with
        | .config => 0x00001000#32 ||| BitVec.ofNat 32 s.params.alpha.apos
        | .ctrl => d.setWidth 32 &&& 1#32
        | .status => s.status.toWord &&& ~~~(d.setWidth 32 &&& 0xE#32)
        | .cmd => 0#32
        | .srcAddr => d.setWidth 32 &&& 0xFFFFFFFC#32
        | .srcStride => d.setWidth 32 &&& 0xFFFFFFFC#32
        | .dstAddr => d.setWidth 32 &&& 0xFFFFFFFC#32
        | .dstStride => d.setWidth 32 &&& 0xFFFFFFFC#32
        | .width => d.setWidth 32
        | .height => d.setWidth 32
        | .pixIn => d.setWidth 32
        | .pixOut => s.pixOut) ∧
      (∀ r', r' ≠ r → t.regValue r' = s.regValue r') ∧ t.engine = s.engine ∧
      (∀ a, Memory.read t.mem a = Memory.read s.mem a) ∧ t.params = s.params ∧ t.host = s.host ∧ t.reads = s.reads

/-- R250: a 32-bit host read of a register returns its value and has no side effect: only the host's record changes. CMD
reads 0, CONFIG the build's layout. -/
def Obligations.RegisterReadHasNoSideEffect : Prop :=
  ∀ (s : State) (r : Reg),
    hostStep (.read (s.params.regAddr r) .word) s = .next { s with reads := (s.regValue r).setWidth 64 :: s.reads } ∧
    s.regValue .cmd = 0#32 ∧
    s.regValue .config = 0x00001000#32 ||| BitVec.ofNat 32 (s.params.alpha.alphaOffset / 8) ∧
    s.regValue .srcAddr = s.srcAddr ∧ s.regValue .srcStride = s.srcStride ∧ s.regValue .dstAddr = s.dstAddr ∧
    s.regValue .dstStride = s.dstStride ∧ s.regValue .width = s.width ∧ s.regValue .height = s.height ∧
    s.regValue .pixIn = s.pixIn ∧ s.regValue .pixOut = s.pixOut ∧
    (∀ k, (s.regValue .status).getLsbD k =
      if k = 0 then s.status.busy else if k = 1 then s.status.done else if k = 2 then s.status.errOpcode
      else if k = 3 then s.status.errBusy else false) ∧
    ∀ k, (s.regValue .ctrl).getLsbD k = if k = 0 then s.ctrl.clampEn else false

/-- R21: a host access that touches the window and is not a 32-bit access at a 4-byte-aligned offset is refused; a read of
a reserved offset returns 0 and a write to one has no effect. That an access only partly inside the window, or one that
begins outside it, is refused too is the model's reading (log 9, DEDUCED). -/
def Obligations.WindowTakesAlignedWordsOnly : Prop :=
  (∀ (s : State) (a : Word) (size : AccessSize) (d : BusData),
    (∃ k < size.bytes, (a + BitVec.ofNat 32 k - s.params.regBase).toNat < 256) →
    (size ≠ .word ∨ (a - s.params.regBase).toNat % 4 ≠ 0 ∨ 256 ≤ (a - s.params.regBase).toNat) →
    hostStep (.write a size d) s = .refused (.windowAccess a) ∧
      hostStep (.read a size) s = .refused (.windowAccess a)) ∧
  ∀ (s : State) (off : Nat) (d : BusData), 0x30 ≤ off → off ≤ 0xFC → off % 4 = 0 →
    hostStep (.write (s.params.regBase + BitVec.ofNat 32 off) .word d) s = .next s ∧
      hostStep (.read (s.params.regBase + BitVec.ofNat 32 off) .word) s = .next { s with reads := 0#64 :: s.reads }

/-- R256: a STATUS write clears DONE, ERR_OPCODE and ERR_BUSY where bits 1, 2 and 3 are 1, ignores bit 0 and bits 31:4,
and changes nothing else; a running command sets DONE again when it completes; CLRSTAT writes 0xE. -/
def Obligations.StatusWriteClearsByOnes : Prop :=
  (∀ (s : State) (v : Word),
    hostStep (.write (s.params.regAddr .status) .word (v.setWidth 64)) s = .next { s with
      status :=
        { busy := s.status.busy
          done := if v.getLsbD 1 then false else s.status.done
          errOpcode := if v.getLsbD 2 then false else s.status.errOpcode
          errBusy := if v.getLsbD 3 then false else s.status.errBusy } }) ∧
  (∀ s t : State, engineStep s = .next t → (s.engine.next s.params.alpha).2 = .finish → t.status.done = true) ∧
  ∀ P : Params, Stmt.expand P .clrstat = [.write (P.regAddr .status) .word 0xE#64]

/-- R23: CONFIG reads `0x1000 or ALPHA_OFFSET/8` in every state (APOS in bits 1:0, 16 in bits 15:8, the rest zero), and no
step changes it. -/
def Obligations.ConfigIsConstant : Prop :=
  (∀ s : State, s.regValue .config = 0x00001000#32 ||| BitVec.ofNat 32 (s.params.alpha.alphaOffset / 8) ∧
    (s.regValue .config).toNat % 4 = s.params.alpha.alphaOffset / 8 ∧
    (s.regValue .config).toNat / 4 % 64 = 0 ∧ (s.regValue .config).toNat / 256 % 256 = 16 ∧
    (s.regValue .config).toNat / 65536 = 0) ∧
  ∀ s t : State, step s = .next t → t.regValue .config = s.regValue .config ∧ t.params = s.params

/-- R32: PIX_OUT changes only by a CMD write of PIX_UNPREMUL, PIX_PREMUL or RECIP_READ made while not busy, or by reset. -/
def Obligations.OnlySinglePixelCommandsWritePixOut : Prop :=
  ∀ s t : State, step s = .next t → t.pixOut ≠ s.pixOut →
    ∃ op rest, s.host = op :: rest ∧
      (op = .reset ∨ (s.status.busy = false ∧ ∃ a d, op = .write a .word d ∧
        Reg.atOffset (s.params.windowOffset a) = some .cmd ∧
        (d.setWidth 32 = 3#32 ∨ d.setWidth 32 = 4#32 ∨ d.setWidth 32 = 5#32)))

/-- R272: an error bit once set stays set in every step but a host write to STATUS with its bit 1, or reset. -/
def Obligations.ErrorBitsAreSticky : Prop :=
  ∀ s t : State, step s = .next t →
    (s.status.errOpcode = true → t.status.errOpcode = false →
      ∃ op rest, s.host = op :: rest ∧ (op = .reset ∨ ∃ a d, op = .write a .word d ∧
        Reg.atOffset (s.params.windowOffset a) = some .status ∧ d.getLsbD 2 = true)) ∧
    (s.status.errBusy = true → t.status.errBusy = false →
      ∃ op rest, s.host = op :: rest ∧ (op = .reset ∨ ∃ a d, op = .write a .word d ∧
        Reg.atOffset (s.params.windowOffset a) = some .status ∧ d.getLsbD 3 = true))

/-- R25 (the row of BUSY): BUSY rises only in the step that accepts a BLIT command word with positive width and height,
and falls only in the completion step, which sets DONE, or by reset. -/
def Obligations.BusyRisesAndFallsAsTheStatusTableSays : Prop :=
  ∀ s t : State, step s = .next t →
    (s.status.busy = false → t.status.busy = true →
      0 < s.width.toInt ∧ 0 < s.height.toInt ∧ ∃ a d rest, s.host = .write a .word d :: rest ∧
        Reg.atOffset (s.params.windowOffset a) = some .cmd ∧ (d.setWidth 32 = 1#32 ∨ d.setWidth 32 = 2#32)) ∧
    (s.status.busy = true → t.status.busy = false →
      (∃ rest, s.host = .reset :: rest) ∨
        (s.engine.phase = .run ∧ (s.engine.next s.params.alpha).2 = .finish ∧ t.status.done = true))

/-- R97, R257: POLL reads the register and repeats until `(v and mask) = value`; nothing of the block changes. That it
repeats as the very next access of the list, before any other host's access or a reset, is the model's (log 27, DESIGN
CHOICE). -/
def Obligations.PollRepeatsUntilMatch : Prop :=
  ∀ (s : State) (r : Reg) (mask value : Word),
    hostStep (.poll (s.params.regAddr r) mask value) s = .next { s with
      reads := (s.regValue r).setWidth 64 :: s.reads
      host := if s.regValue r &&& mask = value then s.host
        else .poll (s.params.regAddr r) mask value :: s.host }

/-- R258, R285: in IDLE the engine takes no step and with no host access to come nothing changes; in RUN the engine can
always move; where both can, either may (`turns`), and the turn is spent. -/
def Obligations.InterleavingOfHostAndEngine : Prop :=
  (∀ s : State, s.engine.phase = .idle → s.host = [] → step s = .next s) ∧
  (∀ (s : State) (op : HostOp) (rest : List HostOp), s.engine.phase = .idle → s.host = op :: rest →
    step s = hostStep op { s with host := rest }) ∧
  (∀ s : State, s.engine.phase = .run → s.host = [] → step s = engineStep s) ∧
  (∀ (s : State) (op : HostOp) (rest : List HostOp) (ts : List Agent), s.engine.phase = .run →
    s.host = op :: rest → s.turns = .host :: ts → step s = hostStep op { s with host := rest, turns := ts }) ∧
  ∀ (s : State) (op : HostOp) (rest : List HostOp) (ts : List Agent), s.engine.phase = .run →
    s.host = op :: rest → s.turns = .engine :: ts → step s = engineStep { s with turns := ts }

/-! ## Pixel arithmetic -/

/-- R120: the table's entries are the exact ceiling reciprocals, 0 for 0. -/
def Obligations.TableIsCeilingReciprocal : Prop :=
  ∀ a : Byte, (recip a).toNat = ceilReciprocal a.toNat

/-- R122: the properties of the table. -/
def Obligations.ReciprocalTableProperties : Prop :=
  (recip 1#8).toNat = 0xFF0000 ∧ (∀ a : Byte, (recip a).toNat ≤ 0xFF0000) ∧
  (recip 255#8).toNat = 0x010000 ∧ (∀ a : Byte, a ≠ 0#8 → 0x010000 ≤ (recip a).toNat) ∧
  (recip 128#8).toNat = 0x01FE00 ∧
  (∀ a b : Byte, a ≠ 0#8 → a < b → (recip b).toNat < (recip a).toNat) ∧
  (∀ a : Byte, a ≠ 0#8 → 255 * 2 ^ 16 ≤ (recip a).toNat * a.toNat ∧
    (recip a).toNat * a.toNat < 255 * 2 ^ 16 + a.toNat) ∧
  ∀ a : Byte, a ≠ 0#8 → ((recip a).toNat * a.toNat = 255 * 2 ^ 16 ↔ a.toNat ∈ exactReciprocals)

/-- R124: the lookup-divide is the floor quotient `(255 · c) div α`, 0 for `α = 0`; its product stays below 2^32. -/
def Obligations.LookupDivideIsFloorQuotient : Prop :=
  ∀ c a : Byte, lookupDivide c.toNat a = (c.toNat * (recip a).toNat) / 2 ^ 16 ∧
    c.toNat * (recip a).toNat ≤ 4261478400 ∧
    (a ≠ 0#8 → lookupDivide c.toNat a = 255 * c.toNat / a.toNat) ∧ (a = 0#8 → lookupDivide c.toNat a = 0)

/-- R146: the six laws of UnpremulChannel. -/
def Obligations.UnpremulChannelLaws : Prop :=
  ∀ (c a : Byte) (clamp : Bool),
    (a = 0#8 → unpremulChannel c a clamp = 0#8) ∧
    (a ≠ 0#8 → (unpremulChannel c a clamp).toNat = min 255 (255 * clampInput c a clamp / a.toNat)) ∧
    (a ≠ 0#8 → clampInput c a clamp ≤ a.toNat →
      (unpremulChannel c a clamp).toNat * a.toNat ≤ 255 * clampInput c a clamp ∧
        255 * clampInput c a clamp < ((unpremulChannel c a clamp).toNat + 1) * a.toNat) ∧
    (c ≤ a → lookupDivide (clampInput c a clamp) a ≤ 255 ∧
      (unpremulChannel c a clamp).toNat = lookupDivide (clampInput c a clamp) a) ∧
    (a ≠ 0#8 → a < c → 256 ≤ lookupDivide (clampInput c a false) a ∧ unpremulChannel c a false = 255#8) ∧
    (a = 255#8 → unpremulChannel c a clamp = c) ∧
    ∀ c' : Byte, c ≤ c' → unpremulChannel c a clamp ≤ unpremulChannel c' a clamp

/-- R144, R172: each pixel function keeps alpha and applies its channel function to each colour channel, for every layout. -/
def Obligations.PixelFunctionsActChannelwise : Prop :=
  ∀ (A : AlphaPos) (p : Word) (clamp : Bool),
    A.alpha (unpremulPixel A p clamp) = A.alpha p ∧
    A.red (unpremulPixel A p clamp) = unpremulChannel (A.red p) (A.alpha p) clamp ∧
    A.green (unpremulPixel A p clamp) = unpremulChannel (A.green p) (A.alpha p) clamp ∧
    A.blue (unpremulPixel A p clamp) = unpremulChannel (A.blue p) (A.alpha p) clamp ∧
    A.alpha (premulPixel A p) = A.alpha p ∧
    A.red (premulPixel A p) = premulChannel (A.red p) (A.alpha p) ∧
    A.green (premulPixel A p) = premulChannel (A.green p) (A.alpha p) ∧
    A.blue (premulPixel A p) = premulChannel (A.blue p) (A.alpha p)

/-- R148: the input clamp changes no output. -/
def Obligations.InputClampChangesNoOutput : Prop :=
  ∀ (A : AlphaPos) (p : Word), unpremulPixel A p false = unpremulPixel A p true

/-- R174: the seven laws of PremulChannel. -/
def Obligations.PremulChannelLaws : Prop :=
  ∀ c a : Byte,
    ((c.toNat * a.toNat * 257 + 32768) / 2 ^ 16 ≤ 255 ∧
      (premulChannel c a).toNat = (c.toNat * a.toNat * 257 + 32768) / 2 ^ 16) ∧
    (premulChannel c 0#8 = 0#8 ∧ premulChannel 0#8 a = 0#8) ∧
    premulChannel c 255#8 = c ∧ premulChannel 255#8 a = a ∧ premulChannel c a = premulChannel a c ∧
    (∀ c' a' : Byte, c ≤ c' → a ≤ a' → premulChannel c a ≤ premulChannel c' a') ∧
    (if ((c.toNat, a.toNat), (premulChannel c a).toNat) ∈ premulShortfalls
      then (premulChannel c a).toNat + 1 = roundOver255 (c.toNat * a.toNat)
      else (premulChannel c a).toNat = roundOver255 (c.toNat * a.toNat))

/-- R202: an opaque pixel is a fixed point of both pixel functions, under both clamp settings. -/
def Obligations.OpaquePixelIsFixedPoint : Prop :=
  ∀ (A : AlphaPos) (p : Word), A.alpha p = 255#8 →
    (∀ clamp, unpremulPixel A p clamp = p) ∧ premulPixel A p = p

/-- R7, R14: the four masks are disjoint and cover the word, and packing a pixel's channels gives the pixel back. -/
def Obligations.PackOfChannelsIsPixel : Prop :=
  ∀ A : AlphaPos,
    (∀ p, A.pack (A.alpha p) (A.red p) (A.green p) (A.blue p) = p) ∧
    (∀ a r g b : Byte, A.alpha (A.pack a r g b) = a ∧ A.red (A.pack a r g b) = r ∧ A.green (A.pack a r g b) = g ∧
      A.blue (A.pack a r g b) = b) ∧
    channelMask A.alphaOffset ||| channelMask A.redOffset ||| channelMask A.greenOffset ||| channelMask A.blueOffset =
      0xFFFFFFFF#32 ∧
    A.alphaOffset + A.redOffset + A.greenOffset + A.blueOffset = 48

/-- R145, R173: the positioned-shift forms give the channel in place: for unpremultiply where the colour is at most alpha or
the clamp is on, for premultiply always. The model's reading (log 26, DEDUCED): with the clamp on, the colour in R145's
product is the one R143 has reduced to at most alpha; with the raw colour the identity fails above alpha. -/
def Obligations.PositionedShiftForms : Prop :=
  ∀ (c a : Byte) (clamp : Bool) (off : Nat), off ∈ [0, 8, 16, 24] →
    (c ≤ a ∨ clamp = true →
      positionedShift (clampInput c a clamp * (recip a).toNat) ((off : Int) - 16) &&& channelMask off =
        (unpremulChannel c a clamp).setWidth 32 <<< off) ∧
    positionedShift (c.toNat * a.toNat * 257 + 32768) ((off : Int) - 16) &&& channelMask off =
      (premulChannel c a).setWidth 32 <<< off

/-- R177: the round trip keeps alpha; its channel error is at most 1 for every colour exactly at the alphas the rule lists;
it is 0 at 255 and at most 127, which alpha 1 reaches. -/
def Obligations.RoundTripError : Prop :=
  (∀ (A : AlphaPos) (p : Word) (clamp : Bool), A.alpha (unpremulPixel A (premulPixel A p) clamp) = A.alpha p) ∧
  (∀ (a : Byte) (clamp : Bool), a ≠ 0#8 →
    ((∀ c : Byte, roundTripError c a clamp ≤ 1) ↔
      125 ≤ a.toNat ∨ a.toNat = 85 ∨ a.toNat = 102 ∨ a.toNat = 119 ∨ a.toNat = 120)) ∧
  (∀ (c : Byte) (clamp : Bool), roundTripError c 255#8 clamp = 0) ∧
  (∀ (c a : Byte) (clamp : Bool), a ≠ 0#8 → roundTripError c a clamp ≤ 127) ∧
  ∀ clamp, roundTripError 127#8 1#8 clamp = 127

/-! ## Memory, footprints, the engine -/

/-- R62: `MemRead` assembles the four bytes little-endian; `MemWrite` sets the four bytes, and leaves every other byte
alone; addresses are modulo 2^32. -/
def Obligations.WordAccessesAreLittleEndian : Prop :=
  ∀ (m : Memory) (a v : Word), Memory.wf m →
    (Memory.readWord m a).toNat =
      (Memory.read m a.toNat).toNat + 2 ^ 8 * (Memory.read m ((a.toNat + 1) % 2 ^ 32)).toNat +
        2 ^ 16 * (Memory.read m ((a.toNat + 2) % 2 ^ 32)).toNat +
        2 ^ 24 * (Memory.read m ((a.toNat + 3) % 2 ^ 32)).toNat ∧
    (∀ k < 4, (Memory.read (Memory.writeWord m a v) ((a.toNat + k) % 2 ^ 32)).toNat = v.toNat / 2 ^ (8 * k) % 2 ^ 8) ∧
    (∀ b, (∀ k < 4, b ≠ (a.toNat + k) % 2 ^ 32) → Memory.read (Memory.writeWord m a v) b = Memory.read m b) ∧
    Memory.readWord (Memory.writeWord m a v) a = v ∧ Memory.wf (Memory.writeWord m a v)

/-- R63: every address the engine forms is a multiple of 4. -/
def Obligations.EngineAddressesAreAligned : Prop :=
  ∀ s : State, s.Inv →
    (∀ a, (s.engine.next s.params.alpha).2 = .read a → a.toNat % 4 = 0) ∧
    ∀ a v, (s.engine.next s.params.alpha).2 = .write a v → a.toNat % 4 = 0

/-- R66: in RUN the engine reads only words of SF and writes only words of DF, and a step of it changes no byte outside
DF. -/
def Obligations.EngineStaysInFootprints : Prop :=
  ∀ s : State, s.Inv → s.engine.phase = .run →
    (∀ a, (s.engine.next s.params.alpha).2 = .read a → a ∈ s.engine.latch.srcFootprint) ∧
    (∀ a v, (s.engine.next s.params.alpha).2 = .write a v → a ∈ s.engine.latch.dstFootprint) ∧
    ∀ t, engineStep s = .next t → ∀ b : Word, s.engine.latch.inDst b = false →
      Memory.read t.mem b.toNat = Memory.read s.mem b.toNat

/-- R223: an engine step writes no register but STATUS.BUSY and STATUS.DONE, and keeps `L`. -/
def Obligations.EngineStepFrame : Prop :=
  ∀ s t : State, engineStep s = .next t →
    (∀ r, r ≠ .status → t.regValue r = s.regValue r) ∧ t.status.errOpcode = s.status.errOpcode ∧
    t.status.errBusy = s.status.errBusy ∧ t.params = s.params ∧ t.engine.latch = s.engine.latch ∧
    t.engine.mem0 = s.engine.mem0 ∧ t.engine.interfered = s.engine.interfered ∧
    t.host = s.host ∧ t.turns = s.turns ∧ t.reads = s.reads

/-- R68: exact aliasing and disjoint footprints are well-defined whenever D is injective, and D is injective in the two
cases the rule names. -/
def Obligations.WellDefinedSpecialCases : Prop :=
  ∀ l : Latch,
    (l.WellDefined ↔
      (∀ r i r' i' : Nat, (r : Int) < l.height → (i : Int) < l.width → (r' : Int) < l.height → (i' : Int) < l.width →
        (l.dstAt r i = l.dstAt r' i' → r = r' ∧ i = i') ∧ (l.dstAt r i = l.srcAt r' i' → r = r' ∧ i = i'))) ∧
    (l.DstInjective → l.src = l.dst → l.sstride = l.dstride → l.WellDefined) ∧
    (l.DstInjective → (∀ w ∈ l.srcFootprint, w ∉ l.dstFootprint) → l.WellDefined) ∧
    (l.height = 1 → 4 * l.width ≤ 2 ^ 32 → l.DstInjective) ∧
    (4 * l.width ≤ |l.dstride| → l.height * |l.dstride| ≤ 2 ^ 32 → l.DstInjective)

/-- R69: the completion step of a command that is not well-defined leaves in every word of DF a free value drawn for that
word, and every byte outside DF unchanged; BUSY falls and DONE is set as usual. That the values are drawn at the completion
step (log 16, DEDUCED), and that a draw is an opaque function of the draw's number and the word (log 5, DESIGN CHOICE), is
the model's. -/
def Obligations.NotWellDefinedDrawsDestination : Prop :=
  ∀ s : State, s.Inv → s.engine.phase = .run → ¬ s.engine.latch.WellDefined →
    (∀ w ∈ s.engine.latch.dstFootprint, s.params.engineWriteStop w = none) →
    (s.engine.next s.params.alpha).2 = .finish →
    ∃ t, engineStep s = .next t ∧ t.engine.phase = .idle ∧ t.status.busy = false ∧ t.status.done = true ∧
      (∀ w ∈ s.engine.latch.dstFootprint, Memory.readWord t.mem w = Config.anyValue s.draws w) ∧
      ∀ b : Word, s.engine.latch.inDst b = false → Memory.read t.mem b.toNat = Memory.read s.mem b.toNat

/-- R74(a): a host write that touches a word of SF ∪ DF during RUN is remembered until the command ends, and the completion
step then leaves a free value in every word of DF and every byte outside DF unchanged. -/
def Obligations.HostWriteToFootprintDrawsDestination : Prop :=
  (∀ (s t : State) (a : Word) (size : AccessSize) (d : BusData), s.engine.phase = .run →
    (∃ b ∈ span a size.bytes, s.engine.latch.inSrc b = true ∨ s.engine.latch.inDst b = true) →
    touchesWindow s.params a size = false → hostStep (.write a size d) s = .next t →
    t.engine.interfered = true ∧ t.engine.phase = .run ∧ t.engine.latch = s.engine.latch) ∧
  (∀ s t : State, s.Inv → s.engine.phase = .run → s.engine.interfered = true → step s = .next t →
    t.engine.phase = .run → t.engine.interfered = true ∧ t.engine.latch = s.engine.latch) ∧
  ∀ s : State, s.Inv → s.engine.phase = .run → s.engine.interfered = true →
    (∀ w ∈ s.engine.latch.dstFootprint, s.params.engineWriteStop w = none) →
    (s.engine.next s.params.alpha).2 = .finish →
    ∃ t, engineStep s = .next t ∧ t.status.done = true ∧
      (∀ w ∈ s.engine.latch.dstFootprint, Memory.readWord t.mem w = Config.anyValue s.draws w) ∧
      ∀ b : Word, s.engine.latch.inDst b = false → Memory.read t.mem b.toNat = Memory.read s.mem b.toNat

/-- R74(b): in a well-defined command in RUN that no host write has touched, a host read of a destination word returns its
value at acceptance or its final value, and changes nothing of the block. -/
def Obligations.HostReadOfDestinationIsRaceOfTwo : Prop :=
  ∀ (s : State) (p : Nat × Nat), s.Inv → s.engine.phase = .run → s.engine.Defined → p ∈ s.engine.latch.pixels →
    touchesWindow s.params (s.engine.latch.dstAt p.1 p.2) .word = false →
    hostStop s.params false (s.engine.latch.dstAt p.1 p.2) .word = none →
    ∃ t v, hostStep (.read (s.engine.latch.dstAt p.1 p.2) .word) s = .next t ∧ t.reads = v :: s.reads ∧
      (v = (Memory.readWord s.engine.mem0 (s.engine.latch.dstAt p.1 p.2)).setWidth 64 ∨
        v = (s.finalWord p).setWidth 64) ∧
      t.mem = s.mem ∧ t.engine = s.engine ∧ t.status = s.status

/-- R74(c), R250: no host read or poll, and no host memory write outside SF ∪ DF, touches the running command: the engine,
STATUS and, for a read, memory are as before; and outside RUN and outside DF a read returns the bytes of memory. R62, R72,
R80: a host memory write stores its data, the lowest address least significant, modulo 2^32 (the width of the data and the
misaligned addresses are the model's, log 19 and log 25, DESIGN CHOICE), and in IDLE a read of the same bytes returns it. -/
def Obligations.HarmlessHostAccesses : Prop :=
  (∀ (s t : State) (a : Word) (size : AccessSize), hostStep (.read a size) s = .next t →
    t.engine = s.engine ∧ t.status = s.status ∧ t.mem = s.mem ∧ t.pixOut = s.pixOut) ∧
  (∀ (s t : State) (a mask value : Word), hostStep (.poll a mask value) s = .next t →
    t.engine = s.engine ∧ t.status = s.status ∧ t.mem = s.mem ∧ t.pixOut = s.pixOut) ∧
  (∀ (s t : State) (a : Word) (size : AccessSize) (d : BusData), touchesWindow s.params a size = false →
    (∀ b ∈ span a size.bytes, s.engine.latch.inSrc b = false ∧ s.engine.latch.inDst b = false) →
    hostStep (.write a size d) s = .next t →
    t.engine = s.engine ∧ t.status = s.status ∧
      ∀ b : Word, b ∉ span a size.bytes → Memory.read t.mem b.toNat = Memory.read s.mem b.toNat) ∧
  (∀ (s : State) (b : Word), s.engine.phase = .idle ∨ s.engine.latch.inDst b = false →
    s.hostByte b = Memory.read s.mem b.toNat) ∧
  ∀ (s : State) (a : Word) (size : AccessSize) (d : BusData), Memory.wf s.mem →
    touchesWindow s.params a size = false → hostStop s.params true a size = none →
    ∃ t, hostStep (.write a size d) s = .next t ∧
      (∀ k < size.bytes,
        (Memory.read t.mem ((a.toNat + k) % 2 ^ 32)).toNat = d.toNat / 2 ^ (8 * k) % 2 ^ 8) ∧
      (s.engine.phase = .idle → (t.hostLoad a size).toNat = d.toNat % 2 ^ (8 * size.bytes))

/-- R196, R192: after a probe pair the engine holds `accu` and `diff`, and within the row goes on to a solid run exactly
when both alphas are 255, else to a constant run exactly when the pixels are equal, else to a probe; a nonzero
`accu and diff` implies the probe. At the end of the row see RowEndGoesToNextRowOrCompletion. -/
def Obligations.RunDispatchAfterPair : Prop :=
  (∀ (A : AlphaPos) (p0 p1 : Word),
    (accuOf A p0 p1 = 0#32 ↔ A.alpha p0 = 255#8 ∧ A.alpha p1 = 255#8) ∧ (diffOf p0 p1 = 0#32 ↔ p0 = p1) ∧
    (dispatchRun (accuOf A p0 p1) (diffOf p0 p1) = .solidRun ↔ A.alpha p0 = 255#8 ∧ A.alpha p1 = 255#8) ∧
    (dispatchRun (accuOf A p0 p1) (diffOf p0 p1) = .constantRun ↔
      ¬ (A.alpha p0 = 255#8 ∧ A.alpha p1 = 255#8) ∧ p0 = p1) ∧
    (accuOf A p0 p1 &&& diffOf p0 p1 ≠ 0#32 → dispatchRun (accuOf A p0 p1) (diffOf p0 p1) = .probe)) ∧
  ∀ (A : AlphaPos) (e : Engine), e.point = .putQ1 →
    (e.next A).1.accu = accuOf A e.p0 e.p1 ∧ (e.next A).1.diff = diffOf e.p0 e.p1 ∧
    (e.i + 2 < e.latch.width.toNat →
      (e.next A).1.i = e.i + 2 ∧ (e.next A).1.rd = dispatchRun (accuOf A e.p0 e.p1) (diffOf e.p0 e.p1) ∧
      (e.next A).2 = .read (e.latch.srcAt e.r (e.i + 2)))

/-- R193, R194, R197: a pixel that continues its run is written, verbatim in a solid run and as `q0` in a constant run; one
that breaks it is left unwritten and read again by the next probe, as the first of a pair when two pixels remain and as
the single tail pixel when one does; a run goes on while the row has pixels and ends with the row, where
RowEndGoesToNextRowOrCompletion says what comes next. -/
def Obligations.RunsContinueOrBreak : Prop :=
  ∀ (A : AlphaPos) (e : Engine),
    (e.point = .gotT → e.i < e.latch.width.toNat →
      (e.rd = .solidRun → A.alpha e.t = 255#8 →
        e.next A = ({ e with point := .putT }, .write (e.latch.dstAt e.r e.i) e.t)) ∧
      (e.rd = .constantRun → e.t = e.p0 →
        e.next A = ({ e with point := .putT }, .write (e.latch.dstAt e.r e.i) e.q0)) ∧
      ((e.rd = .solidRun ∧ A.alpha e.t ≠ 255#8) ∨ (e.rd = .constantRun ∧ e.t ≠ e.p0) →
        e.next A = ({ e with
            rd := .probe, point := if e.i + 2 ≤ e.latch.width.toNat then .gotP0 else .gotTail },
          .read (e.latch.srcAt e.r e.i)))) ∧
    (e.point = .putT → e.i + 1 < e.latch.width.toNat →
      e.next A = ({ e with i := e.i + 1, point := .gotT }, .read (e.latch.srcAt e.r (e.i + 1)))) ∧
    (e.point = .putT → e.i + 1 = e.latch.width.toNat → (e.next A).1.rd = .probe)

/-- R198, R228, R227: where all of a row is written, by a pair (whether or not it enters a run), by a run or by the tail, the
next motion is the read of pixel 0 of the next row, in PROBE with `i = 0`, as the first of a pair or as the single pixel of
a row; after the last row it is the completion step. -/
def Obligations.RowEndGoesToNextRowOrCompletion : Prop :=
  ∀ (A : AlphaPos) (e : Engine), e.placeOk = true → 0 < e.latch.width →
    e.writtenInRow = e.latch.width.toNat →
    (e.r + 1 < e.latch.height.toNat →
      (e.next A).2 = .read (e.latch.srcAt (e.r + 1) 0) ∧ (e.next A).1.r = e.r + 1 ∧ (e.next A).1.i = 0 ∧
      (e.next A).1.rd = .probe ∧
      (e.next A).1.point = if e.latch.width.toNat = 1 then .gotTail else .gotP0) ∧
    (e.latch.height.toNat ≤ e.r + 1 → (e.next A).2 = .finish ∧ (e.next A).1.rd = .probe)

/-- R195 (a probe pair), R192: wherever the engine comes to a pair (`e` is the engine with the pair's first read: the first
probe of the command or of a later row, after another pair, after a broken run), the pair is four engine steps: read, read,
write, write, with F of each pixel, where memory admits them. -/
def Obligations.ProbePairReadsTwoWritesTwo : Prop :=
  ∀ (s : State) (e : Engine) (p0 p1 : Word), s.engine.phase = .run → s.host = [] →
    e = (s.engine.next s.params.alpha).1 → e.point = .gotP0 →
    s.params.engineReadStop (e.latch.srcAt e.r e.i) = none →
    s.params.engineReadStop (e.latch.srcAt e.r (e.i + 1)) = none →
    s.params.engineWriteStop (e.latch.dstAt e.r e.i) = none →
    s.params.engineWriteStop (e.latch.dstAt e.r (e.i + 1)) = none →
    p0 = Memory.readWord s.mem (e.latch.srcAt e.r e.i) →
    p1 = Memory.readWord s.mem (e.latch.srcAt e.r (e.i + 1)) →
    (s.engine.next s.params.alpha).2 = .read (e.latch.srcAt e.r e.i) ∧ e.latch = s.engine.latch ∧
    e.i + 2 ≤ e.latch.width.toNat ∧
    ∃ t, Host.Core.run core 4 s = .next t ∧
      t.mem = Memory.writeWord
        (Memory.writeWord s.mem (e.latch.dstAt e.r e.i) (pixelFunction s.params.alpha e.latch p0))
        (e.latch.dstAt e.r (e.i + 1)) (pixelFunction s.params.alpha e.latch p1) ∧
      t.trace =
        [.write (e.latch.dstAt e.r (e.i + 1)) (pixelFunction s.params.alpha e.latch p1),
          .write (e.latch.dstAt e.r e.i) (pixelFunction s.params.alpha e.latch p0),
          .read (e.latch.srcAt e.r (e.i + 1)) p1,
          .read (e.latch.srcAt e.r e.i) p0] ++ s.trace ∧
      t.engine.phase = .run

/-- R227: after the last write of the last row the engine takes one more step, without a memory access: IDLE, BUSY 0, DONE
1; memory is as it was when the result is the one of R229. -/
def Obligations.CompletionStepAfterLastWrite : Prop :=
  ∀ s : State, s.Inv → s.engine.phase = .run → s.engine.r + 1 = s.engine.latch.height.toNat →
    s.engine.writtenInRow = s.engine.latch.width.toNat →
    ∃ t, engineStep s = .next t ∧ t.trace = s.trace ∧ t.engine.phase = .idle ∧ t.status.busy = false ∧
      t.status.done = true ∧ (s.engine.Defined → t.mem = s.mem)

/-- R61, R64, R67: an engine access inside the register window faults, and so does a read of a word that is not readable
plain memory and a write of one that is not writable plain memory; any other access is made. That the fault comes at the
offending access, and that the command's other accesses are made, is the model's (log 8, DEDUCED): the spec faults such a
command as a whole (93_implementation_defined.md row 5). -/
def Obligations.EngineFaultsOutsideMemory : Prop :=
  ∀ s : State,
    (∀ a, (s.engine.next s.params.alpha).2 = .read a →
      ((∃ b ∈ span a 4, s.params.inWindow b = true) → engineStep s = .fault (.engineInWindow a)) ∧
      ((∃ b ∈ span a 4, s.params.kindAt b ≠ none ∧ s.params.kindAt b ≠ some .readOnly) →
        ∃ f, engineStep s = .fault f) ∧
      ((∀ b ∈ span a 4, s.params.inWindow b = false ∧
        (s.params.kindAt b = none ∨ s.params.kindAt b = some .readOnly)) → ∃ t, engineStep s = .next t)) ∧
    ∀ a v, (s.engine.next s.params.alpha).2 = .write a v →
      ((∃ b ∈ span a 4, s.params.inWindow b = true) → engineStep s = .fault (.engineInWindow a)) ∧
      ((∃ b ∈ span a 4, s.params.kindAt b ≠ none ∧ s.params.kindAt b ≠ some .writeOnly) →
        ∃ f, engineStep s = .fault f) ∧
      ((∀ b ∈ span a 4, s.params.inWindow b = false ∧
        (s.params.kindAt b = none ∨ s.params.kindAt b = some .writeOnly)) → ∃ t, engineStep s = .next t)

/-! ## Headlines -/

/-- R27, R28, R31, R30: the state right after reset satisfies the invariant, for every build. -/
def Obligations.ResetSatisfiesInvariant : Prop :=
  ∀ P : Params, (State.resetWith P).Inv ∧ (State.resetWith P).ProgressInv ∧ (State.resetWith P).WritesInv

/-- R27, R28, R31, R30, R60: every step of the machine keeps the invariant. -/
def Obligations.StepKeepsInvariant : Prop :=
  ∀ s t : State, s.Inv → step s = .next t → t.Inv

/-- R203, R229: every step of the machine keeps the progress of a running BLIT towards its result, whatever the host does
that leaves its footprints alone. -/
def Obligations.StepKeepsProgress : Prop :=
  ∀ s t : State, s.Inv → s.ProgressInv → step s = .next t → t.ProgressInv

/-- R81, R222: the writes of a command are those of its pixels, each once, in ascending order: every step keeps it, and
the completion step finds them all made. -/
def Obligations.EachDestinationWordIsWrittenOnceInOrder : Prop :=
  (∀ s t : State, s.Inv → s.WritesInv → step s = .next t → t.WritesInv) ∧
  ∀ s t : State, s.Inv → s.WritesInv → s.engine.phase = .run → engineStep s = .next t → t.engine.phase = .idle →
    t.writesInOrder = s.engine.latch.dstFootprint

/-- R201: a command in RUN whose memory admits its accesses completes, where the host does nothing, within three steps a
pixel and the completion step. -/
def Obligations.RunningBlitCompletes : Prop :=
  ∀ s : State, s.Inv → s.engine.phase = .run → s.host = [] → s.engine.latch.UsableOn s.params →
    ∃ n t, n ≤ 3 * (s.engine.latch.width.toNat * s.engine.latch.height.toNat) + 1 ∧
      Host.Core.run core n s = .next t ∧ t.engine.phase = .idle ∧ t.status.busy = false ∧ t.status.done = true

/-- R229: a well-defined BLIT accepted where the host does nothing more and memory admits its accesses completes with
`M[D(r,i)] = F(M0[S(r,i)])` for every pixel, F being the command's pixel function, and every byte outside DF as it was. -/
def Obligations.BlitTransformsEveryPixel : Prop :=
  ∀ (i : Instr) (s : State), i = .blitUnpremul ∨ i = .blitPremul → s.Inv → s.status.busy = false → s.host = [] →
    0 < s.width.toInt → 0 < s.height.toInt → (s.latchFor i).WellDefined → (s.latchFor i).UsableOn s.params →
    ∃ u n t, exec i s = .next u ∧ Host.Core.run core n u = .next t ∧ t.engine.phase = .idle ∧
      t.status.busy = false ∧ t.status.done = true ∧
      (∀ r c : Nat, (r : Int) < s.height.toInt → (c : Int) < s.width.toInt →
        Memory.readWord t.mem ((s.latchFor i).dstAt r c) =
          if i = .blitUnpremul
          then unpremulPixel s.params.alpha (Memory.readWord s.mem ((s.latchFor i).srcAt r c)) s.ctrl.clampEn
          else premulPixel s.params.alpha (Memory.readWord s.mem ((s.latchFor i).srcAt r c))) ∧
      ∀ b : Word, (s.latchFor i).inDst b = false → Memory.read t.mem b.toNat = Memory.read s.mem b.toNat
end

