-- ==== Sys2Proof/Laws/Memory.lean ====
section
/-!
SUPPORT. Memory: what a read gives after a write, the canonical form, words and their bytes (R62).
-/

namespace Sys2Proof

/-! Words and bytes. -/

theorem byteOfWord_wordOfBytes (b0 b1 b2 b3 : Byte) :
    byteOfWord (wordOfBytes b0 b1 b2 b3) 0 = b0 ∧ byteOfWord (wordOfBytes b0 b1 b2 b3) 1 = b1 ∧
      byteOfWord (wordOfBytes b0 b1 b2 b3) 2 = b2 ∧ byteOfWord (wordOfBytes b0 b1 b2 b3) 3 = b3 := by
  refine ⟨?_, ?_, ?_, ?_⟩ <;>
  · ext i hi
    simp only [byteOfWord, wordOfBytes, BitVec.getElem_extractLsb', BitVec.getLsbD_append]
    interval_cases i <;> simp

theorem wordOfBytes_byteOfWord (v : Word) :
    wordOfBytes (byteOfWord v 0) (byteOfWord v 1) (byteOfWord v 2) (byteOfWord v 3) = v := by
  ext i hi
  simp only [byteOfWord, wordOfBytes, ← BitVec.getLsbD_eq_getElem, BitVec.getLsbD_append, BitVec.getLsbD_extractLsb']
  interval_cases i <;> simp

/-- Two words with the same four bytes are equal. -/
theorem word_ext_bytes {v w : Word} (h : ∀ k < 4, byteOfWord v k = byteOfWord w k) : v = w := by
  rw [← wordOfBytes_byteOfWord v, ← wordOfBytes_byteOfWord w, h 0 (by omega), h 1 (by omega), h 2 (by omega),
    h 3 (by omega)]

theorem wordHolds_iff (w b : Word) : wordHolds w b = true ↔ b = w ∨ b = w + 1#32 ∨ b = w + 2#32 ∨ b = w + 3#32 := by
  simp only [wordHolds, decide_eq_true_eq]
  constructor
  · intro h; bv_omega
  · rintro (rfl | rfl | rfl | rfl) <;> bv_omega

namespace Machine

/-! One byte. -/

variable {m : Memory}

@[simp] theorem Memory.read_nil (a : Nat) : Memory.read [] a = Config.blankByte := rfl

theorem Memory.read_cons (c : Host.Cell) (rest : Memory) (a : Nat) :
    Memory.read (c :: rest) a = if c.1 = a then c.2 else Memory.read rest a := rfl

@[simp] theorem Memory.wf_nil : Memory.wf [] := by simp [Memory.wf]

theorem Memory.wf_cons {c : Host.Cell} {rest : Memory} :
    Memory.wf (c :: rest) ↔
      (∀ d ∈ rest, c.1 < d.1) ∧ c.1 < 2 ^ 32 ∧ c.2 ≠ Config.blankByte ∧ Memory.wf rest := by
  simp only [Memory.wf, List.pairwise_cons, List.mem_cons, forall_eq_or_imp]
  tauto

/-- A byte below every listed address reads as an unlisted one. -/
theorem Memory.read_of_below {a : Nat} (h : ∀ d ∈ m, a < d.1) : Memory.read m a = Config.blankByte := by
  induction m with
  | nil => rfl
  | cons c rest ih =>
    have hc := h c (by simp)
    rw [Memory.read_cons, if_neg (by omega), ih (fun d hd => h d (by simp [hd]))]

theorem Memory.read_write_other (m : Memory) {a a' : Nat} (b : Byte) (h : a' ≠ a) :
    Memory.read (Memory.write m a b) a' = Memory.read m a' := by
  induction m with
  | nil =>
    rw [Memory.write]
    split
    · rfl
    · rw [Memory.read_cons, if_neg (by simpa using h.symm)]
  | cons c rest ih =>
    rw [Memory.write]
    split_ifs with h1 h2 h3 h4
    · rfl
    · rw [Memory.read_cons, if_neg (by simpa using h.symm)]
    · rw [Memory.read_cons, if_neg (by omega)]
    · rw [Memory.read_cons, if_neg (by simpa using h.symm), Memory.read_cons, if_neg (by omega)]
    · rw [Memory.read_cons, Memory.read_cons, ih]

theorem Memory.read_write_same {a : Nat} (b : Byte) (h : Memory.wf m) :
    Memory.read (Memory.write m a b) a = b := by
  induction m with
  | nil =>
    rw [Memory.write]
    split
    · simp [*]
    · simp [Memory.read_cons]
  | cons c rest ih =>
    obtain ⟨hlt, -, -, hrest⟩ := Memory.wf_cons.1 h
    rw [Memory.write]
    split_ifs with h1 h2 h3 h4
    · subst h2
      refine Memory.read_of_below fun d hd => ?_
      rcases List.mem_cons.1 hd with rfl | hd
      · exact h1
      · exact lt_trans h1 (hlt d hd)
    · simp [Memory.read_cons]
    · subst h4
      exact Memory.read_of_below fun d hd => h3 ▸ hlt d hd
    · simp [Memory.read_cons]
    · rw [Memory.read_cons, if_neg (by omega), ih hrest]

/-- A write lists no address but its own beside those listed before. -/
theorem Memory.mem_write {a : Nat} {b : Byte} {d : Host.Cell} (h : d ∈ Memory.write m a b) :
    d ∈ m ∨ (d = (a, b) ∧ b ≠ Config.blankByte) := by
  induction m with
  | nil =>
    rw [Memory.write] at h
    split at h <;> simp_all
  | cons c rest ih =>
    rw [Memory.write] at h
    split_ifs at h
    · exact .inl h
    · rcases List.mem_cons.1 h with rfl | h
      · exact .inr ⟨rfl, ‹_›⟩
      · exact .inl h
    · exact .inl (List.mem_cons_of_mem _ h)
    · rcases List.mem_cons.1 h with rfl | h
      · exact .inr ⟨rfl, ‹_›⟩
      · exact .inl (List.mem_cons_of_mem _ h)
    · rcases List.mem_cons.1 h with rfl | h
      · exact .inl (List.mem_cons_self ..)
      · exact (ih h).imp_left (List.mem_cons_of_mem _)

/-- Every byte write keeps the canonical form. -/
theorem Memory.write_wf {a : Nat} (b : Byte) (h : Memory.wf m) (ha : a < 2 ^ 32) : Memory.wf (Memory.write m a b) := by
  induction m with
  | nil =>
    rw [Memory.write]
    split
    · exact h
    · exact Memory.wf_cons.2 ⟨by simp, ha, ‹_›, Memory.wf_nil⟩
  | cons c rest ih =>
    obtain ⟨hlt, hc, hb, hrest⟩ := Memory.wf_cons.1 h
    rw [Memory.write]
    split_ifs with h1 h2 h3 h4
    · exact h
    · refine Memory.wf_cons.2 ⟨fun d hd => ?_, ha, ‹_›, h⟩
      rcases List.mem_cons.1 hd with rfl | hd
      · exact h1
      · exact lt_trans h1 (hlt d hd)
    · exact hrest
    · exact Memory.wf_cons.2 ⟨fun d hd => h3 ▸ hlt d hd, ha, ‹_›, hrest⟩
    · refine Memory.wf_cons.2 ⟨fun d hd => ?_, hc, hb, ih hrest⟩
      rcases Memory.mem_write hd with hd | ⟨rfl, -⟩
      · exact hlt d hd
      · simp only; omega

/-! One word. -/

theorem Memory.byteOfWord_readWord (m : Memory) (a : Word) :
    byteOfWord (Memory.readWord m a) 0 = Memory.read m a.toNat ∧
      byteOfWord (Memory.readWord m a) 1 = Memory.read m (a + 1#32).toNat ∧
      byteOfWord (Memory.readWord m a) 2 = Memory.read m (a + 2#32).toNat ∧
      byteOfWord (Memory.readWord m a) 3 = Memory.read m (a + 3#32).toNat :=
  byteOfWord_wordOfBytes ..

/-- Two memories that agree on the four bytes of a word give the same word. -/
theorem Memory.readWord_congr {m m' : Memory} {a : Word}
    (h : ∀ b, wordHolds a b = true → Memory.read m b.toNat = Memory.read m' b.toNat) :
    Memory.readWord m a = Memory.readWord m' a := by
  have h' := fun b hb => h b ((wordHolds_iff a b).2 hb)
  simp only [Memory.readWord, h' a (by simp), h' (a + 1#32) (by simp), h' (a + 2#32) (by simp),
    h' (a + 3#32) (by simp)]

theorem Memory.writeWord_wf (a v : Word) (h : Memory.wf m) : Memory.wf (Memory.writeWord m a v) := by
  unfold Memory.writeWord
  exact Memory.write_wf _ (Memory.write_wf _ (Memory.write_wf _ (Memory.write_wf _ h (BitVec.isLt _)) (BitVec.isLt _))
    (BitVec.isLt _)) (BitVec.isLt _)

/-- A word write leaves every byte outside the word alone. -/
theorem Memory.read_writeWord_outside (m : Memory) {a b : Word} (v : Word) (h : wordHolds a b = false) :
    Memory.read (Memory.writeWord m a v) b.toNat = Memory.read m b.toNat := by
  have hb : ¬(b = a ∨ b = a + 1#32 ∨ b = a + 2#32 ∨ b = a + 3#32) := by
    rw [← wordHolds_iff]; simp [h]
  simp only [not_or] at hb
  obtain ⟨h0, h1, h2, h3⟩ := hb
  unfold Memory.writeWord
  rw [Memory.read_write_other _ _ (fun e => h3 (BitVec.eq_of_toNat_eq e)),
    Memory.read_write_other _ _ (fun e => h2 (BitVec.eq_of_toNat_eq e)),
    Memory.read_write_other _ _ (fun e => h1 (BitVec.eq_of_toNat_eq e)),
    Memory.read_write_other _ _ (fun e => h0 (BitVec.eq_of_toNat_eq e))]

/-- The four bytes of a written word (R62). -/
theorem Memory.read_writeWord_bytes (a v : Word) (h : Memory.wf m) :
    Memory.read (Memory.writeWord m a v) a.toNat = byteOfWord v 0 ∧
      Memory.read (Memory.writeWord m a v) (a + 1#32).toNat = byteOfWord v 1 ∧
      Memory.read (Memory.writeWord m a v) (a + 2#32).toNat = byteOfWord v 2 ∧
      Memory.read (Memory.writeWord m a v) (a + 3#32).toNat = byteOfWord v 3 := by
  have w0 := Memory.write_wf (m := m) (byteOfWord v 0) h a.isLt
  have w1 := Memory.write_wf (byteOfWord v 1) w0 (a + 1#32).isLt
  have w2 := Memory.write_wf (byteOfWord v 2) w1 (a + 2#32).isLt
  have e : ∀ x y : Word, x ≠ y → x.toNat ≠ y.toNat := fun x y hxy e => hxy (BitVec.eq_of_toNat_eq e)
  unfold Memory.writeWord
  refine ⟨?_, ?_, ?_, ?_⟩
  · rw [Memory.read_write_other _ _ (e _ _ (by bv_omega)), Memory.read_write_other _ _ (e _ _ (by bv_omega)),
      Memory.read_write_other _ _ (e _ _ (by bv_omega)), Memory.read_write_same _ h]
  · rw [Memory.read_write_other _ _ (e _ _ (by bv_omega)), Memory.read_write_other _ _ (e _ _ (by bv_omega)),
      Memory.read_write_same _ w0]
  · rw [Memory.read_write_other _ _ (e _ _ (by bv_omega)), Memory.read_write_same _ w1]
  · rw [Memory.read_write_same _ w2]

/-- `MemRead` after `MemWrite` at the same address. -/
theorem Memory.readWord_writeWord_same (a v : Word) (h : Memory.wf m) :
    Memory.readWord (Memory.writeWord m a v) a = v := by
  obtain ⟨h0, h1, h2, h3⟩ := Memory.read_writeWord_bytes a v h
  rw [Memory.readWord, h0, h1, h2, h3, wordOfBytes_byteOfWord]

/-- Distinct multiples of 4 are words with no common byte. -/
theorem wordHolds_disjoint {a b c : Word} (ha : a.toNat % 4 = 0) (hb : b.toNat % 4 = 0) (hne : a ≠ b)
    (h : wordHolds a c = true) : wordHolds b c = false := by
  have hne' : a.toNat ≠ b.toNat := fun e => hne (BitVec.eq_of_toNat_eq e)
  simp only [wordHolds, decide_eq_true_eq, decide_eq_false_iff_not, BitVec.toNat_sub] at *
  omega

/-- `MemRead` after `MemWrite` at another aligned address. -/
theorem Memory.readWord_writeWord_other (m : Memory) {a b : Word} (v : Word) (ha : a.toNat % 4 = 0)
    (hb : b.toNat % 4 = 0) (hne : a ≠ b) : Memory.readWord (Memory.writeWord m a v) b = Memory.readWord m b :=
  Memory.readWord_congr fun _ hc =>
    Memory.read_writeWord_outside m v (wordHolds_disjoint hb ha hne.symm hc)

/-! Many bytes, many words. -/

/-- A host write keeps the canonical form. -/
theorem Memory.writeBytes_wf (a : Word) (n : Nat) (v : BusData) (h : Memory.wf m) :
    Memory.wf (Memory.writeBytes m a n v) := by
  unfold Memory.writeBytes
  generalize List.range n = ks
  induction ks generalizing m with
  | nil => exact h
  | cons k ks ih => exact ih (Memory.write_wf _ h (BitVec.isLt _))

/-- A host write leaves every byte outside its span alone. -/
theorem Memory.read_writeBytes_outside (m : Memory) {a b : Word} {n : Nat} (v : BusData) (h : b ∉ span a n) :
    Memory.read (Memory.writeBytes m a n v) b.toNat = Memory.read m b.toNat := by
  unfold Memory.writeBytes
  unfold span at h
  generalize List.range n = ks at h
  induction ks generalizing m with
  | nil => rfl
  | cons k ks ih =>
    simp only [List.map_cons, List.mem_cons, not_or] at h
    rw [List.foldl_cons, ih _ h.2, Memory.read_write_other _ _ (fun e => h.1 (BitVec.eq_of_toNat_eq e))]

/-- Every byte of a host write's span holds its byte of the data (R62, R80). -/
theorem Memory.read_writeBytes_inside (a : Word) {n k : Nat} (v : BusData) (h : Memory.wf m) (hk : k < n)
    (hn : n ≤ 2 ^ 32) :
    Memory.read (Memory.writeBytes m a n v) (a + BitVec.ofNat 32 k).toNat = v.extractLsb' (8 * k) 8 := by
  induction n with
  | zero => omega
  | succ n ih =>
    have hsplit : Memory.writeBytes m a (n + 1) v =
        Memory.write (Memory.writeBytes m a n v) (a + BitVec.ofNat 32 n).toNat (v.extractLsb' (8 * n) 8) := by
      simp only [Memory.writeBytes, List.range_succ, List.foldl_append, List.foldl_cons, List.foldl_nil]
    rw [hsplit]
    rcases Nat.lt_succ_iff_lt_or_eq.1 hk with hlt | rfl
    · have hne : (a + BitVec.ofNat 32 k).toNat ≠ (a + BitVec.ofNat 32 n).toNat := by
        simp only [BitVec.toNat_add, BitVec.toNat_ofNat]
        omega
      rw [Memory.read_write_other _ _ hne, ih hlt (by omega)]
    · exact Memory.read_write_same _ (Memory.writeBytes_wf _ _ _ h)

theorem Memory.drawWords_wf (n : Nat) (ws : List Word) (h : Memory.wf m) : Memory.wf (Memory.drawWords m n ws) := by
  unfold Memory.drawWords
  induction ws generalizing m with
  | nil => exact h
  | cons w ws ih => exact ih (Memory.writeWord_wf _ _ h)

/-- A draw leaves every byte outside its words alone. -/
theorem Memory.read_drawWords_outside (m : Memory) (n : Nat) {ws : List Word} {b : Word}
    (h : ∀ w ∈ ws, wordHolds w b = false) :
    Memory.read (Memory.drawWords m n ws) b.toNat = Memory.read m b.toNat := by
  unfold Memory.drawWords
  induction ws generalizing m with
  | nil => rfl
  | cons w ws ih =>
    rw [List.foldl_cons, ih _ (fun w' hw' => h w' (by simp [hw'])),
      Memory.read_writeWord_outside _ _ (h w (by simp))]

/-- After a draw over aligned words each of them holds its own free value (R69). -/
theorem Memory.readWord_drawWords (n : Nat) {ws : List Word} {w : Word} (h : Memory.wf m)
    (ha : ∀ v ∈ ws, v.toNat % 4 = 0) (hw : w ∈ ws) :
    Memory.readWord (Memory.drawWords m n ws) w = Config.anyValue n w := by
  unfold Memory.drawWords
  induction ws using List.reverseRecOn with
  | nil => simp at hw
  | append_singleton ws v ih =>
    simp only [List.foldl_append, List.foldl_cons, List.foldl_nil]
    by_cases hv : v = w
    · subst hv
      exact Memory.readWord_writeWord_same _ _ (Memory.drawWords_wf n ws h)
    · rw [Memory.readWord_writeWord_other _ _ (ha v (by simp)) (ha w hw) hv]
      refine ih (fun u hu => ha u (by simp [hu])) ?_
      rcases List.mem_append.1 hw with hw | hw
      · exact hw
      · simp at hw; exact absurd hw.symm hv

end Machine

end Sys2Proof
end

