-- ==== Sys2Proof/Laws/Operands.lean ====
section
/-!
SUPPORT. Operands: the pixels of a command, the alignment of the addresses formed from them (R63, R65), and the register
window (R20).
-/

namespace Sys2Proof.Machine

theorem Latch.mem_pixels {l : Latch} {p : Nat × Nat} :
    p ∈ l.pixels ↔ p.1 < l.height.toNat ∧ p.2 < l.width.toNat := by
  obtain ⟨r, i⟩ := p
  simp [Latch.pixels]

theorem ofInt_aligned {x : Int} (h : x % 4 = 0) : Aligned (BitVec.ofInt 32 x) := by
  simp only [Aligned, BitVec.toNat_ofInt]
  omega

theorem Latch.srcAt_aligned {l : Latch} (h : l.AlignedOperands) (r i : Nat) : Aligned (l.srcAt r i) := by
  obtain ⟨hs, -, hss, -⟩ := h
  refine ofInt_aligned ?_
  have : ((r : Int) * l.sstride) % 4 = 0 := by rw [Int.mul_emod, hss]; simp
  simp only [Aligned] at hs
  omega

theorem Latch.dstAt_aligned {l : Latch} (h : l.AlignedOperands) (r i : Nat) : Aligned (l.dstAt r i) := by
  obtain ⟨-, hs, -, hss⟩ := h
  refine ofInt_aligned ?_
  have : ((r : Int) * l.dstride) % 4 = 0 := by rw [Int.mul_emod, hss]; simp
  simp only [Aligned] at hs
  omega

theorem Latch.mem_dstFootprint {l : Latch} {w : Word} :
    w ∈ l.dstFootprint ↔ ∃ p ∈ l.pixels, l.dstAt p.1 p.2 = w := by
  simp [Latch.dstFootprint]

theorem Latch.mem_srcFootprint {l : Latch} {w : Word} :
    w ∈ l.srcFootprint ↔ ∃ p ∈ l.pixels, l.srcAt p.1 p.2 = w := by
  simp [Latch.srcFootprint]

theorem Latch.dstFootprint_aligned {l : Latch} (h : l.AlignedOperands) : ∀ w ∈ l.dstFootprint, Aligned w := by
  intro w hw
  obtain ⟨p, -, rfl⟩ := Latch.mem_dstFootprint.1 hw
  exact l.dstAt_aligned h _ _

theorem Latch.inDst_eq_false {l : Latch} {b : Word} :
    l.inDst b = false ↔ ∀ w ∈ l.dstFootprint, wordHolds w b = false := by
  simp [Latch.inDst]

theorem Latch.inSrc_eq_false {l : Latch} {b : Word} :
    l.inSrc b = false ↔ ∀ w ∈ l.srcFootprint, wordHolds w b = false := by
  simp [Latch.inSrc]

theorem alignWord_aligned (v : Word) : Aligned (alignWord v) := by
  have h : alignWord v = (v >>> 2) <<< 2 := by
    ext i hi
    simp only [alignWord, BitVec.getElem_and, BitVec.getElem_shiftLeft]
    interval_cases i <;> simp
  simp only [Aligned, h, BitVec.toNat_shiftLeft, Nat.shiftLeft_eq]
  omega

theorem toInt_aligned {w : Word} (h : Aligned w) : w.toInt % 4 = 0 := by
  simp only [Aligned] at h
  rw [BitVec.toInt_eq_toNat_cond]
  split <;> omega

theorem Latch.latchFor_aligned {s : State} (h : s.HardwiredLow) (i : Instr) : (s.latchFor i).AlignedOperands := by
  obtain ⟨h1, h2, h3, h4⟩ := h
  exact ⟨h1, h3, toInt_aligned h2, toInt_aligned h4⟩

/-! The window. -/

theorem windowOffset_regAddr (P : Params) (r : Reg) : P.windowOffset (P.regAddr r) = r.offset := by
  cases r <;> simp [Params.windowOffset, Params.regAddr, Reg.offset]

theorem atOffset_offset (r : Reg) : Reg.atOffset r.offset = some r := by
  cases r <;> rfl

theorem definedWindowAccess_regAddr (P : Params) (r : Reg) : definedWindowAccess P (P.regAddr r) .word = true := by
  have h := windowOffset_regAddr P r
  simp only [definedWindowAccess, Params.inWindow, h]
  cases r <;> rfl

/-- An access that begins in the window touches it. -/
theorem touchesWindow_of_inWindow {P : Params} {a : Word} (size : AccessSize) (h : P.inWindow a = true) :
    touchesWindow P a size = true := by
  cases size <;> simp [touchesWindow, span, AccessSize.bytes, List.range_succ, h]

theorem touchesWindow_of_defined {P : Params} {a : Word} {size : AccessSize}
    (h : definedWindowAccess P a size = true) : touchesWindow P a size = true := by
  simp only [definedWindowAccess, Bool.and_eq_true] at h
  exact touchesWindow_of_inWindow size h.1.2

end Sys2Proof.Machine
end

