-- ==== Sys2Proof/Laws/State.lean ====
section
/-!
SUPPORT. One lemma per field per update: what each named update of State leaves in each field.
-/

namespace Sys2Proof.Machine

variable (s : State)

/-! A free draw over DF. -/

@[simp] theorem State.drawDst_params : (s.drawDst).params = s.params := rfl
@[simp] theorem State.drawDst_ctrl : (s.drawDst).ctrl = s.ctrl := rfl
@[simp] theorem State.drawDst_status : (s.drawDst).status = s.status := rfl
@[simp] theorem State.drawDst_srcAddr : (s.drawDst).srcAddr = s.srcAddr := rfl
@[simp] theorem State.drawDst_srcStride : (s.drawDst).srcStride = s.srcStride := rfl
@[simp] theorem State.drawDst_dstAddr : (s.drawDst).dstAddr = s.dstAddr := rfl
@[simp] theorem State.drawDst_dstStride : (s.drawDst).dstStride = s.dstStride := rfl
@[simp] theorem State.drawDst_width : (s.drawDst).width = s.width := rfl
@[simp] theorem State.drawDst_height : (s.drawDst).height = s.height := rfl
@[simp] theorem State.drawDst_pixIn : (s.drawDst).pixIn = s.pixIn := rfl
@[simp] theorem State.drawDst_pixOut : (s.drawDst).pixOut = s.pixOut := rfl
@[simp] theorem State.drawDst_engine : (s.drawDst).engine = s.engine := rfl
@[simp] theorem State.drawDst_mem :
    (s.drawDst).mem = Memory.drawWords s.mem s.draws (s.engine.latch.dstFootprint.filter (fun w => (s.params.engineWriteStop w).isNone)) := rfl
@[simp] theorem State.drawDst_host : (s.drawDst).host = s.host := rfl
@[simp] theorem State.drawDst_turns : (s.drawDst).turns = s.turns := rfl
@[simp] theorem State.drawDst_reads : (s.drawDst).reads = s.reads := rfl
@[simp] theorem State.drawDst_trace : (s.drawDst).trace = s.trace := rfl
@[simp] theorem State.drawDst_draws : (s.drawDst).draws = s.draws + 1 := rfl

/-! A write of PIX_OUT. -/

@[simp] theorem State.setPixOut_params (v : Word) : (s.setPixOut v).params = s.params := rfl
@[simp] theorem State.setPixOut_ctrl (v : Word) : (s.setPixOut v).ctrl = s.ctrl := rfl
@[simp] theorem State.setPixOut_status (v : Word) : (s.setPixOut v).status = s.status := rfl
@[simp] theorem State.setPixOut_srcAddr (v : Word) : (s.setPixOut v).srcAddr = s.srcAddr := rfl
@[simp] theorem State.setPixOut_srcStride (v : Word) : (s.setPixOut v).srcStride = s.srcStride := rfl
@[simp] theorem State.setPixOut_dstAddr (v : Word) : (s.setPixOut v).dstAddr = s.dstAddr := rfl
@[simp] theorem State.setPixOut_dstStride (v : Word) : (s.setPixOut v).dstStride = s.dstStride := rfl
@[simp] theorem State.setPixOut_width (v : Word) : (s.setPixOut v).width = s.width := rfl
@[simp] theorem State.setPixOut_height (v : Word) : (s.setPixOut v).height = s.height := rfl
@[simp] theorem State.setPixOut_pixIn (v : Word) : (s.setPixOut v).pixIn = s.pixIn := rfl
@[simp] theorem State.setPixOut_pixOut (v : Word) : (s.setPixOut v).pixOut = v := rfl
@[simp] theorem State.setPixOut_engine (v : Word) : (s.setPixOut v).engine = s.engine := rfl
@[simp] theorem State.setPixOut_mem (v : Word) : (s.setPixOut v).mem = s.mem := rfl
@[simp] theorem State.setPixOut_host (v : Word) : (s.setPixOut v).host = s.host := rfl
@[simp] theorem State.setPixOut_turns (v : Word) : (s.setPixOut v).turns = s.turns := rfl
@[simp] theorem State.setPixOut_reads (v : Word) : (s.setPixOut v).reads = s.reads := rfl
@[simp] theorem State.setPixOut_trace (v : Word) : (s.setPixOut v).trace = s.trace := rfl
@[simp] theorem State.setPixOut_draws (v : Word) : (s.setPixOut v).draws = s.draws := rfl

/-! A CMD write turned away. -/

@[simp] theorem State.rejectBusy_params : (s.rejectBusy).params = s.params := rfl
@[simp] theorem State.rejectBusy_ctrl : (s.rejectBusy).ctrl = s.ctrl := rfl
@[simp] theorem State.rejectBusy_status : (s.rejectBusy).status = s.status.onBusyWrite := rfl
@[simp] theorem State.rejectBusy_srcAddr : (s.rejectBusy).srcAddr = s.srcAddr := rfl
@[simp] theorem State.rejectBusy_srcStride : (s.rejectBusy).srcStride = s.srcStride := rfl
@[simp] theorem State.rejectBusy_dstAddr : (s.rejectBusy).dstAddr = s.dstAddr := rfl
@[simp] theorem State.rejectBusy_dstStride : (s.rejectBusy).dstStride = s.dstStride := rfl
@[simp] theorem State.rejectBusy_width : (s.rejectBusy).width = s.width := rfl
@[simp] theorem State.rejectBusy_height : (s.rejectBusy).height = s.height := rfl
@[simp] theorem State.rejectBusy_pixIn : (s.rejectBusy).pixIn = s.pixIn := rfl
@[simp] theorem State.rejectBusy_pixOut : (s.rejectBusy).pixOut = s.pixOut := rfl
@[simp] theorem State.rejectBusy_engine : (s.rejectBusy).engine = s.engine := rfl
@[simp] theorem State.rejectBusy_mem : (s.rejectBusy).mem = s.mem := rfl
@[simp] theorem State.rejectBusy_host : (s.rejectBusy).host = s.host := rfl
@[simp] theorem State.rejectBusy_turns : (s.rejectBusy).turns = s.turns := rfl
@[simp] theorem State.rejectBusy_reads : (s.rejectBusy).reads = s.reads := rfl
@[simp] theorem State.rejectBusy_trace : (s.rejectBusy).trace = s.trace := rfl
@[simp] theorem State.rejectBusy_draws : (s.rejectBusy).draws = s.draws := rfl

/-! Acceptance. -/

@[simp] theorem State.accept_params (i : Instr) : (s.accept i).params = s.params := rfl
@[simp] theorem State.accept_ctrl (i : Instr) : (s.accept i).ctrl = s.ctrl := rfl
@[simp] theorem State.accept_status (i : Instr) : (s.accept i).status = s.status.onAccept := rfl
@[simp] theorem State.accept_srcAddr (i : Instr) : (s.accept i).srcAddr = s.srcAddr := rfl
@[simp] theorem State.accept_srcStride (i : Instr) : (s.accept i).srcStride = s.srcStride := rfl
@[simp] theorem State.accept_dstAddr (i : Instr) : (s.accept i).dstAddr = s.dstAddr := rfl
@[simp] theorem State.accept_dstStride (i : Instr) : (s.accept i).dstStride = s.dstStride := rfl
@[simp] theorem State.accept_width (i : Instr) : (s.accept i).width = s.width := rfl
@[simp] theorem State.accept_height (i : Instr) : (s.accept i).height = s.height := rfl
@[simp] theorem State.accept_pixIn (i : Instr) : (s.accept i).pixIn = s.pixIn := rfl
@[simp] theorem State.accept_pixOut (i : Instr) : (s.accept i).pixOut = s.pixOut := rfl
@[simp] theorem State.accept_engine (i : Instr) : (s.accept i).engine = { s.engine with latch := s.latchFor i } := rfl
@[simp] theorem State.accept_mem (i : Instr) : (s.accept i).mem = s.mem := rfl
@[simp] theorem State.accept_host (i : Instr) : (s.accept i).host = s.host := rfl
@[simp] theorem State.accept_turns (i : Instr) : (s.accept i).turns = s.turns := rfl
@[simp] theorem State.accept_reads (i : Instr) : (s.accept i).reads = s.reads := rfl
@[simp] theorem State.accept_trace (i : Instr) : (s.accept i).trace = s.trace := rfl
@[simp] theorem State.accept_draws (i : Instr) : (s.accept i).draws = s.draws := rfl

/-! Completion. -/

@[simp] theorem State.complete_params : (s.complete).params = s.params := rfl
@[simp] theorem State.complete_ctrl : (s.complete).ctrl = s.ctrl := rfl
@[simp] theorem State.complete_status : (s.complete).status = s.status.onComplete := rfl
@[simp] theorem State.complete_srcAddr : (s.complete).srcAddr = s.srcAddr := rfl
@[simp] theorem State.complete_srcStride : (s.complete).srcStride = s.srcStride := rfl
@[simp] theorem State.complete_dstAddr : (s.complete).dstAddr = s.dstAddr := rfl
@[simp] theorem State.complete_dstStride : (s.complete).dstStride = s.dstStride := rfl
@[simp] theorem State.complete_width : (s.complete).width = s.width := rfl
@[simp] theorem State.complete_height : (s.complete).height = s.height := rfl
@[simp] theorem State.complete_pixIn : (s.complete).pixIn = s.pixIn := rfl
@[simp] theorem State.complete_pixOut : (s.complete).pixOut = s.pixOut := rfl
@[simp] theorem State.complete_engine : (s.complete).engine = s.engine := rfl
@[simp] theorem State.complete_mem : (s.complete).mem = s.mem := rfl
@[simp] theorem State.complete_host : (s.complete).host = s.host := rfl
@[simp] theorem State.complete_turns : (s.complete).turns = s.turns := rfl
@[simp] theorem State.complete_reads : (s.complete).reads = s.reads := rfl
@[simp] theorem State.complete_trace : (s.complete).trace = s.trace := rfl
@[simp] theorem State.complete_draws : (s.complete).draws = s.draws := rfl

/-! The start of a BLIT. -/

@[simp] theorem State.beginRun_params : (s.beginRun).params = s.params := rfl
@[simp] theorem State.beginRun_ctrl : (s.beginRun).ctrl = s.ctrl := rfl
@[simp] theorem State.beginRun_status : (s.beginRun).status = s.status.onStart := rfl
@[simp] theorem State.beginRun_srcAddr : (s.beginRun).srcAddr = s.srcAddr := rfl
@[simp] theorem State.beginRun_srcStride : (s.beginRun).srcStride = s.srcStride := rfl
@[simp] theorem State.beginRun_dstAddr : (s.beginRun).dstAddr = s.dstAddr := rfl
@[simp] theorem State.beginRun_dstStride : (s.beginRun).dstStride = s.dstStride := rfl
@[simp] theorem State.beginRun_width : (s.beginRun).width = s.width := rfl
@[simp] theorem State.beginRun_height : (s.beginRun).height = s.height := rfl
@[simp] theorem State.beginRun_pixIn : (s.beginRun).pixIn = s.pixIn := rfl
@[simp] theorem State.beginRun_pixOut : (s.beginRun).pixOut = s.pixOut := rfl
@[simp] theorem State.beginRun_engine :
    (s.beginRun).engine = { s.engine with
      phase := .run, r := 0, i := 0, rd := .probe, point := .rowStart, mem0 := s.mem, interfered := false } := rfl
@[simp] theorem State.beginRun_mem : (s.beginRun).mem = s.mem := rfl
@[simp] theorem State.beginRun_host : (s.beginRun).host = s.host := rfl
@[simp] theorem State.beginRun_turns : (s.beginRun).turns = s.turns := rfl
@[simp] theorem State.beginRun_reads : (s.beginRun).reads = s.reads := rfl
@[simp] theorem State.beginRun_trace : (s.beginRun).trace = [] := rfl
@[simp] theorem State.beginRun_draws : (s.beginRun).draws = s.draws := rfl

/-! The completion step. -/

@[simp] theorem State.endRun_params : (s.endRun).params = s.params := rfl
@[simp] theorem State.endRun_ctrl : (s.endRun).ctrl = s.ctrl := rfl
@[simp] theorem State.endRun_status : (s.endRun).status = s.status.onFinish := rfl
@[simp] theorem State.endRun_srcAddr : (s.endRun).srcAddr = s.srcAddr := rfl
@[simp] theorem State.endRun_srcStride : (s.endRun).srcStride = s.srcStride := rfl
@[simp] theorem State.endRun_dstAddr : (s.endRun).dstAddr = s.dstAddr := rfl
@[simp] theorem State.endRun_dstStride : (s.endRun).dstStride = s.dstStride := rfl
@[simp] theorem State.endRun_width : (s.endRun).width = s.width := rfl
@[simp] theorem State.endRun_height : (s.endRun).height = s.height := rfl
@[simp] theorem State.endRun_pixIn : (s.endRun).pixIn = s.pixIn := rfl
@[simp] theorem State.endRun_pixOut : (s.endRun).pixOut = s.pixOut := rfl
@[simp] theorem State.endRun_engine : (s.endRun).engine = { s.engine with phase := .idle } := rfl
@[simp] theorem State.endRun_mem : (s.endRun).mem = s.mem := rfl
@[simp] theorem State.endRun_host : (s.endRun).host = s.host := rfl
@[simp] theorem State.endRun_turns : (s.endRun).turns = s.turns := rfl
@[simp] theorem State.endRun_reads : (s.endRun).reads = s.reads := rfl
@[simp] theorem State.endRun_trace : (s.endRun).trace = s.trace := rfl
@[simp] theorem State.endRun_draws : (s.endRun).draws = s.draws := rfl

/-! An engine read. -/

@[simp] theorem State.engineRead_params (a : Word) : (s.engineRead a).params = s.params := rfl
@[simp] theorem State.engineRead_ctrl (a : Word) : (s.engineRead a).ctrl = s.ctrl := rfl
@[simp] theorem State.engineRead_status (a : Word) : (s.engineRead a).status = s.status := rfl
@[simp] theorem State.engineRead_srcAddr (a : Word) : (s.engineRead a).srcAddr = s.srcAddr := rfl
@[simp] theorem State.engineRead_srcStride (a : Word) : (s.engineRead a).srcStride = s.srcStride := rfl
@[simp] theorem State.engineRead_dstAddr (a : Word) : (s.engineRead a).dstAddr = s.dstAddr := rfl
@[simp] theorem State.engineRead_dstStride (a : Word) : (s.engineRead a).dstStride = s.dstStride := rfl
@[simp] theorem State.engineRead_width (a : Word) : (s.engineRead a).width = s.width := rfl
@[simp] theorem State.engineRead_height (a : Word) : (s.engineRead a).height = s.height := rfl
@[simp] theorem State.engineRead_pixIn (a : Word) : (s.engineRead a).pixIn = s.pixIn := rfl
@[simp] theorem State.engineRead_pixOut (a : Word) : (s.engineRead a).pixOut = s.pixOut := rfl
@[simp] theorem State.engineRead_engine (a : Word) :
    (s.engineRead a).engine = s.engine.receive (Memory.readWord s.mem a) := rfl
@[simp] theorem State.engineRead_mem (a : Word) : (s.engineRead a).mem = s.mem := rfl
@[simp] theorem State.engineRead_host (a : Word) : (s.engineRead a).host = s.host := rfl
@[simp] theorem State.engineRead_turns (a : Word) : (s.engineRead a).turns = s.turns := rfl
@[simp] theorem State.engineRead_reads (a : Word) : (s.engineRead a).reads = s.reads := rfl
@[simp] theorem State.engineRead_trace (a : Word) :
    (s.engineRead a).trace = .read a (Memory.readWord s.mem a) :: s.trace := rfl
@[simp] theorem State.engineRead_draws (a : Word) : (s.engineRead a).draws = s.draws := rfl

/-! An engine write. -/

@[simp] theorem State.engineWrite_params (a v : Word) : (s.engineWrite a v).params = s.params := rfl
@[simp] theorem State.engineWrite_ctrl (a v : Word) : (s.engineWrite a v).ctrl = s.ctrl := rfl
@[simp] theorem State.engineWrite_status (a v : Word) : (s.engineWrite a v).status = s.status := rfl
@[simp] theorem State.engineWrite_srcAddr (a v : Word) : (s.engineWrite a v).srcAddr = s.srcAddr := rfl
@[simp] theorem State.engineWrite_srcStride (a v : Word) : (s.engineWrite a v).srcStride = s.srcStride := rfl
@[simp] theorem State.engineWrite_dstAddr (a v : Word) : (s.engineWrite a v).dstAddr = s.dstAddr := rfl
@[simp] theorem State.engineWrite_dstStride (a v : Word) : (s.engineWrite a v).dstStride = s.dstStride := rfl
@[simp] theorem State.engineWrite_width (a v : Word) : (s.engineWrite a v).width = s.width := rfl
@[simp] theorem State.engineWrite_height (a v : Word) : (s.engineWrite a v).height = s.height := rfl
@[simp] theorem State.engineWrite_pixIn (a v : Word) : (s.engineWrite a v).pixIn = s.pixIn := rfl
@[simp] theorem State.engineWrite_pixOut (a v : Word) : (s.engineWrite a v).pixOut = s.pixOut := rfl
@[simp] theorem State.engineWrite_engine (a v : Word) : (s.engineWrite a v).engine = s.engine := rfl
@[simp] theorem State.engineWrite_mem (a v : Word) : (s.engineWrite a v).mem = Memory.writeWord s.mem a v := rfl
@[simp] theorem State.engineWrite_host (a v : Word) : (s.engineWrite a v).host = s.host := rfl
@[simp] theorem State.engineWrite_turns (a v : Word) : (s.engineWrite a v).turns = s.turns := rfl
@[simp] theorem State.engineWrite_reads (a v : Word) : (s.engineWrite a v).reads = s.reads := rfl
@[simp] theorem State.engineWrite_trace (a v : Word) : (s.engineWrite a v).trace = .write a v :: s.trace := rfl
@[simp] theorem State.engineWrite_draws (a v : Word) : (s.engineWrite a v).draws = s.draws := rfl

/-! A host write to memory. -/

@[simp] theorem State.hostStore_params (a : Word) (size : AccessSize) (d : BusData) :
    (s.hostStore a size d).params = s.params := rfl
@[simp] theorem State.hostStore_ctrl (a : Word) (size : AccessSize) (d : BusData) :
    (s.hostStore a size d).ctrl = s.ctrl := rfl
@[simp] theorem State.hostStore_status (a : Word) (size : AccessSize) (d : BusData) :
    (s.hostStore a size d).status = s.status := rfl
@[simp] theorem State.hostStore_srcAddr (a : Word) (size : AccessSize) (d : BusData) :
    (s.hostStore a size d).srcAddr = s.srcAddr := rfl
@[simp] theorem State.hostStore_srcStride (a : Word) (size : AccessSize) (d : BusData) :
    (s.hostStore a size d).srcStride = s.srcStride := rfl
@[simp] theorem State.hostStore_dstAddr (a : Word) (size : AccessSize) (d : BusData) :
    (s.hostStore a size d).dstAddr = s.dstAddr := rfl
@[simp] theorem State.hostStore_dstStride (a : Word) (size : AccessSize) (d : BusData) :
    (s.hostStore a size d).dstStride = s.dstStride := rfl
@[simp] theorem State.hostStore_width (a : Word) (size : AccessSize) (d : BusData) :
    (s.hostStore a size d).width = s.width := rfl
@[simp] theorem State.hostStore_height (a : Word) (size : AccessSize) (d : BusData) :
    (s.hostStore a size d).height = s.height := rfl
@[simp] theorem State.hostStore_pixIn (a : Word) (size : AccessSize) (d : BusData) :
    (s.hostStore a size d).pixIn = s.pixIn := rfl
@[simp] theorem State.hostStore_pixOut (a : Word) (size : AccessSize) (d : BusData) :
    (s.hostStore a size d).pixOut = s.pixOut := rfl
@[simp] theorem State.hostStore_engine (a : Word) (size : AccessSize) (d : BusData) :
    (s.hostStore a size d).engine = { s.engine with interfered := s.engine.interfered || s.disturbs a size } := rfl
@[simp] theorem State.hostStore_mem (a : Word) (size : AccessSize) (d : BusData) :
    (s.hostStore a size d).mem = Memory.writeBytes s.mem a size.bytes d := rfl
@[simp] theorem State.hostStore_host (a : Word) (size : AccessSize) (d : BusData) :
    (s.hostStore a size d).host = s.host := rfl
@[simp] theorem State.hostStore_turns (a : Word) (size : AccessSize) (d : BusData) :
    (s.hostStore a size d).turns = s.turns := rfl
@[simp] theorem State.hostStore_reads (a : Word) (size : AccessSize) (d : BusData) :
    (s.hostStore a size d).reads = s.reads := rfl
@[simp] theorem State.hostStore_trace (a : Word) (size : AccessSize) (d : BusData) :
    (s.hostStore a size d).trace = s.trace := rfl
@[simp] theorem State.hostStore_draws (a : Word) (size : AccessSize) (d : BusData) :
    (s.hostStore a size d).draws = s.draws := rfl

/-! A host read. -/

@[simp] theorem State.afterRead_params (v : BusData) : (s.afterRead v).params = s.params := rfl
@[simp] theorem State.afterRead_ctrl (v : BusData) : (s.afterRead v).ctrl = s.ctrl := rfl
@[simp] theorem State.afterRead_status (v : BusData) : (s.afterRead v).status = s.status := rfl
@[simp] theorem State.afterRead_srcAddr (v : BusData) : (s.afterRead v).srcAddr = s.srcAddr := rfl
@[simp] theorem State.afterRead_srcStride (v : BusData) : (s.afterRead v).srcStride = s.srcStride := rfl
@[simp] theorem State.afterRead_dstAddr (v : BusData) : (s.afterRead v).dstAddr = s.dstAddr := rfl
@[simp] theorem State.afterRead_dstStride (v : BusData) : (s.afterRead v).dstStride = s.dstStride := rfl
@[simp] theorem State.afterRead_width (v : BusData) : (s.afterRead v).width = s.width := rfl
@[simp] theorem State.afterRead_height (v : BusData) : (s.afterRead v).height = s.height := rfl
@[simp] theorem State.afterRead_pixIn (v : BusData) : (s.afterRead v).pixIn = s.pixIn := rfl
@[simp] theorem State.afterRead_pixOut (v : BusData) : (s.afterRead v).pixOut = s.pixOut := rfl
@[simp] theorem State.afterRead_engine (v : BusData) : (s.afterRead v).engine = s.engine := rfl
@[simp] theorem State.afterRead_mem (v : BusData) : (s.afterRead v).mem = s.mem := rfl
@[simp] theorem State.afterRead_host (v : BusData) : (s.afterRead v).host = s.host := rfl
@[simp] theorem State.afterRead_turns (v : BusData) : (s.afterRead v).turns = s.turns := rfl
@[simp] theorem State.afterRead_reads (v : BusData) : (s.afterRead v).reads = v :: s.reads := rfl
@[simp] theorem State.afterRead_trace (v : BusData) : (s.afterRead v).trace = s.trace := rfl
@[simp] theorem State.afterRead_draws (v : BusData) : (s.afterRead v).draws = s.draws := rfl

/-! The host's access taken up. -/

@[simp] theorem State.takeHost_params (rest : List HostOp) : (s.takeHost rest).params = s.params := rfl
@[simp] theorem State.takeHost_ctrl (rest : List HostOp) : (s.takeHost rest).ctrl = s.ctrl := rfl
@[simp] theorem State.takeHost_status (rest : List HostOp) : (s.takeHost rest).status = s.status := rfl
@[simp] theorem State.takeHost_srcAddr (rest : List HostOp) : (s.takeHost rest).srcAddr = s.srcAddr := rfl
@[simp] theorem State.takeHost_srcStride (rest : List HostOp) : (s.takeHost rest).srcStride = s.srcStride := rfl
@[simp] theorem State.takeHost_dstAddr (rest : List HostOp) : (s.takeHost rest).dstAddr = s.dstAddr := rfl
@[simp] theorem State.takeHost_dstStride (rest : List HostOp) : (s.takeHost rest).dstStride = s.dstStride := rfl
@[simp] theorem State.takeHost_width (rest : List HostOp) : (s.takeHost rest).width = s.width := rfl
@[simp] theorem State.takeHost_height (rest : List HostOp) : (s.takeHost rest).height = s.height := rfl
@[simp] theorem State.takeHost_pixIn (rest : List HostOp) : (s.takeHost rest).pixIn = s.pixIn := rfl
@[simp] theorem State.takeHost_pixOut (rest : List HostOp) : (s.takeHost rest).pixOut = s.pixOut := rfl
@[simp] theorem State.takeHost_engine (rest : List HostOp) : (s.takeHost rest).engine = s.engine := rfl
@[simp] theorem State.takeHost_mem (rest : List HostOp) : (s.takeHost rest).mem = s.mem := rfl
@[simp] theorem State.takeHost_host (rest : List HostOp) : (s.takeHost rest).host = rest := rfl
@[simp] theorem State.takeHost_turns (rest : List HostOp) : (s.takeHost rest).turns = s.turns := rfl
@[simp] theorem State.takeHost_reads (rest : List HostOp) : (s.takeHost rest).reads = s.reads := rfl
@[simp] theorem State.takeHost_trace (rest : List HostOp) : (s.takeHost rest).trace = s.trace := rfl
@[simp] theorem State.takeHost_draws (rest : List HostOp) : (s.takeHost rest).draws = s.draws := rfl

/-! STATUS under each event (R25). -/

variable (st : Status)

@[simp] theorem Status.onAccept_busy : st.onAccept.busy = st.busy := rfl
@[simp] theorem Status.onAccept_done : st.onAccept.done = false := rfl
@[simp] theorem Status.onAccept_errOpcode : st.onAccept.errOpcode = st.errOpcode := rfl
@[simp] theorem Status.onAccept_errBusy : st.onAccept.errBusy = st.errBusy := rfl
@[simp] theorem Status.onComplete_busy : st.onComplete.busy = st.busy := rfl
@[simp] theorem Status.onComplete_done : st.onComplete.done = true := rfl
@[simp] theorem Status.onComplete_errOpcode : st.onComplete.errOpcode = st.errOpcode := rfl
@[simp] theorem Status.onComplete_errBusy : st.onComplete.errBusy = st.errBusy := rfl
@[simp] theorem Status.onStart_busy : st.onStart.busy = true := rfl
@[simp] theorem Status.onStart_done : st.onStart.done = st.done := rfl
@[simp] theorem Status.onStart_errOpcode : st.onStart.errOpcode = st.errOpcode := rfl
@[simp] theorem Status.onStart_errBusy : st.onStart.errBusy = st.errBusy := rfl
@[simp] theorem Status.onFinish_busy : st.onFinish.busy = false := rfl
@[simp] theorem Status.onFinish_done : st.onFinish.done = true := rfl
@[simp] theorem Status.onFinish_errOpcode : st.onFinish.errOpcode = st.errOpcode := rfl
@[simp] theorem Status.onFinish_errBusy : st.onFinish.errBusy = st.errBusy := rfl
@[simp] theorem Status.onReserved_busy : st.onReserved.busy = st.busy := rfl
@[simp] theorem Status.onReserved_done : st.onReserved.done = st.done := rfl
@[simp] theorem Status.onReserved_errOpcode : st.onReserved.errOpcode = true := rfl
@[simp] theorem Status.onReserved_errBusy : st.onReserved.errBusy = st.errBusy := rfl
@[simp] theorem Status.onBusyWrite_busy : st.onBusyWrite.busy = st.busy := rfl
@[simp] theorem Status.onBusyWrite_done : st.onBusyWrite.done = st.done := rfl
@[simp] theorem Status.onBusyWrite_errOpcode : st.onBusyWrite.errOpcode = st.errOpcode := rfl
@[simp] theorem Status.onBusyWrite_errBusy : st.onBusyWrite.errBusy = true := rfl
@[simp] theorem Status.clearBy_busy (v : Word) : (st.clearBy v).busy = st.busy := rfl
@[simp] theorem Status.clearBy_done (v : Word) : (st.clearBy v).done = (st.done && !(v.getLsbD 1)) := rfl
@[simp] theorem Status.clearBy_errOpcode (v : Word) : (st.clearBy v).errOpcode = (st.errOpcode && !(v.getLsbD 2)) := rfl
@[simp] theorem Status.clearBy_errBusy (v : Word) : (st.clearBy v).errBusy = (st.errBusy && !(v.getLsbD 3)) := rfl

/-! What reset leaves (R38). -/

variable (P : Params)

@[simp] theorem State.resetWith_params : (State.resetWith P).params = P := rfl
@[simp] theorem State.resetWith_ctrl : (State.resetWith P).ctrl = { clampEn := false } := rfl
@[simp] theorem State.resetWith_status :
    (State.resetWith P).status = { busy := false, done := false, errOpcode := false, errBusy := false } := rfl
@[simp] theorem State.resetWith_srcAddr : (State.resetWith P).srcAddr = 0#32 := rfl
@[simp] theorem State.resetWith_srcStride : (State.resetWith P).srcStride = 0#32 := rfl
@[simp] theorem State.resetWith_dstAddr : (State.resetWith P).dstAddr = 0#32 := rfl
@[simp] theorem State.resetWith_dstStride : (State.resetWith P).dstStride = 0#32 := rfl
@[simp] theorem State.resetWith_width : (State.resetWith P).width = 0#32 := rfl
@[simp] theorem State.resetWith_height : (State.resetWith P).height = 0#32 := rfl
@[simp] theorem State.resetWith_pixIn : (State.resetWith P).pixIn = 0#32 := rfl
@[simp] theorem State.resetWith_pixOut : (State.resetWith P).pixOut = 0#32 := rfl
@[simp] theorem State.resetWith_engine : (State.resetWith P).engine = Engine.reset := rfl
@[simp] theorem State.resetWith_mem : (State.resetWith P).mem = [] := rfl
@[simp] theorem State.resetWith_host : (State.resetWith P).host = [] := rfl
@[simp] theorem State.resetWith_turns : (State.resetWith P).turns = [] := rfl
@[simp] theorem State.resetWith_reads : (State.resetWith P).reads = [] := rfl
@[simp] theorem State.resetWith_trace : (State.resetWith P).trace = [] := rfl
@[simp] theorem State.resetWith_draws : (State.resetWith P).draws = 0 := rfl

end Sys2Proof.Machine
end

