-- ==== Sys2Proof/Laws/Engine.lean ====
section
/-!
SUPPORT. The engine: where the head of the row procedure leads (R195, R228), what `Engine.next` leaves alone, and all that
one engine step can do.
-/

namespace Sys2Proof.Machine

/-! The head of the loop of R195, case by case. -/

theorem Engine.probe_pair {e : Engine} (h : e.i + 2 ≤ e.latch.width.toNat) :
    e.probe = ({ e with rd := .probe, point := .gotP0 }, .read (e.latch.srcAt e.r e.i)) := by
  have h1 : 0 < e.remaining := by simp only [Engine.remaining]; omega
  have h2 : 2 ≤ Engine.remaining { e with rd := .probe } := by simp only [Engine.remaining]; omega
  simp only [Engine.probe, if_pos h1, Engine.probePixel, Engine.readSrc]
  rw [if_pos (show 2 ≤ e.remaining from h2)]

theorem Engine.probe_tail {e : Engine} (h : e.i + 1 = e.latch.width.toNat) :
    e.probe = ({ e with rd := .probe, point := .gotTail }, .read (e.latch.srcAt e.r e.i)) := by
  have h1 : 0 < e.remaining := by simp only [Engine.remaining]; omega
  have h2 : ¬ 2 ≤ e.remaining := by simp only [Engine.remaining]; omega
  simp only [Engine.probe, if_pos h1, Engine.probePixel, Engine.readSrc, if_neg h2]

/-- The end of a row that is not the last: the first probe of the next row (R198, R228). -/
theorem Engine.probe_nextRow {e : Engine} (h : e.latch.width.toNat ≤ e.i) (hr : e.r + 1 < e.latch.height.toNat)
    (hw : 0 < e.latch.width) :
    e.probe = ({ e with
        r := e.r + 1, i := 0, rd := .probe,
        point := if 2 ≤ e.latch.width.toNat then .gotP0 else .gotTail },
      .read (e.latch.srcAt (e.r + 1) 0)) := by
  have h1 : ¬ 0 < e.remaining := by simp only [Engine.remaining]; omega
  have h2 : (e.r : Int) + 1 < e.latch.height ∧ 0 < e.latch.width := ⟨by omega, hw⟩
  rw [Engine.probe, if_neg h1, if_pos h2]
  rfl

/-- The end of the last row: the completion step comes next (R227). -/
theorem Engine.probe_finish {e : Engine} (h : e.latch.width.toNat ≤ e.i) (hr : e.latch.height.toNat ≤ e.r + 1) :
    e.probe = ({ e with rd := .probe }, .finish) := by
  have h1 : ¬ 0 < e.remaining := by simp only [Engine.remaining]; omega
  have h2 : ¬ ((e.r : Int) + 1 < e.latch.height ∧ 0 < e.latch.width) := by omega
  simp only [Engine.probe, if_neg h1, if_neg h2]

/-- All the head of the loop can do, for a place in a row of the rectangle. -/
theorem Engine.probe_cases {e : Engine} (hi : e.i ≤ e.latch.width.toNat) (hw : 0 < e.latch.width) :
    (e.i + 2 ≤ e.latch.width.toNat ∧
      e.probe = ({ e with rd := .probe, point := .gotP0 }, .read (e.latch.srcAt e.r e.i))) ∨
    (e.i + 1 = e.latch.width.toNat ∧
      e.probe = ({ e with rd := .probe, point := .gotTail }, .read (e.latch.srcAt e.r e.i))) ∨
    (e.i = e.latch.width.toNat ∧ e.r + 1 < e.latch.height.toNat ∧ 2 ≤ e.latch.width.toNat ∧
      e.probe = ({ e with r := e.r + 1, i := 0, rd := .probe, point := .gotP0 },
        .read (e.latch.srcAt (e.r + 1) 0))) ∨
    (e.i = e.latch.width.toNat ∧ e.r + 1 < e.latch.height.toNat ∧ e.latch.width.toNat = 1 ∧
      e.probe = ({ e with r := e.r + 1, i := 0, rd := .probe, point := .gotTail },
        .read (e.latch.srcAt (e.r + 1) 0))) ∨
    (e.i = e.latch.width.toNat ∧ e.latch.height.toNat ≤ e.r + 1 ∧ e.probe = ({ e with rd := .probe }, .finish)) := by
  rcases Nat.lt_trichotomy (e.i + 1) e.latch.width.toNat with h | h | h
  · exact .inl ⟨h, Engine.probe_pair h⟩
  · exact .inr (.inl ⟨h, Engine.probe_tail h⟩)
  · have hi' : e.i = e.latch.width.toNat := by omega
    by_cases hr : e.r + 1 < e.latch.height.toNat
    · have hp := Engine.probe_nextRow hi'.ge hr hw
      by_cases h2 : 2 ≤ e.latch.width.toNat
      · exact .inr (.inr (.inl ⟨hi', hr, h2, by rw [hp, if_pos h2]⟩))
      · exact .inr (.inr (.inr (.inl ⟨hi', hr, by omega, by rw [hp, if_neg h2]⟩)))
    · exact .inr (.inr (.inr (.inr ⟨hi', by omega, Engine.probe_finish hi'.ge (by omega)⟩)))

/-- All the head of a run loop can do: read the next pixel, or what the head of the outer loop does. -/
theorem Engine.runLoop_cases (e : Engine) :
    (e.i < e.latch.width.toNat ∧
      e.runLoop = ({ e with point := .gotT }, .read (e.latch.srcAt e.r e.i))) ∨
    (e.latch.width.toNat ≤ e.i ∧ e.runLoop = e.probe) := by
  by_cases h : 0 < e.remaining
  · exact .inl ⟨by simp only [Engine.remaining] at h; omega, by simp only [Engine.runLoop, if_pos h, Engine.readSrc]⟩
  · exact .inr ⟨by simp only [Engine.remaining] at h; omega, by simp only [Engine.runLoop, if_neg h]⟩

/-! `Engine.next` at each place of the row procedure (R195). -/

theorem Engine.next_rowStart (A : AlphaPos) {e : Engine} (h : e.point = .rowStart) : e.next A = e.probe := by
  simp only [Engine.next, h]

theorem Engine.next_gotP0 (A : AlphaPos) {e : Engine} (h : e.point = .gotP0) :
    e.next A = ({ e with point := .gotP1 }, .read (e.latch.srcAt e.r (e.i + 1))) := by
  simp only [Engine.next, h, Engine.readSrc]

theorem Engine.next_gotP1 (A : AlphaPos) {e : Engine} (h : e.point = .gotP1) :
    e.next A = ({ e with
        q0 := pixelFunction A e.latch e.p0, q1 := pixelFunction A e.latch e.p1, point := .putQ0 },
      .write (e.latch.dstAt e.r e.i) (pixelFunction A e.latch e.p0)) := by
  simp only [Engine.next, h, Engine.writeDst]

theorem Engine.next_putQ0 (A : AlphaPos) {e : Engine} (h : e.point = .putQ0) :
    e.next A = ({ e with point := .putQ1 }, .write (e.latch.dstAt e.r (e.i + 1)) e.q1) := by
  simp only [Engine.next, h, Engine.writeDst]

/-- The engine after a probe pair: `accu`, `diff`, `i := i + 2` and the run detector's state (R196). -/
def Engine.pairDone (A : AlphaPos) (e : Engine) : Engine :=
  { e with
    accu := accuOf A e.p0 e.p1, diff := diffOf e.p0 e.p1, i := e.i + 2,
    rd := dispatchRun (accuOf A e.p0 e.p1) (diffOf e.p0 e.p1) }

theorem Engine.next_putQ1 (A : AlphaPos) {e : Engine} (h : e.point = .putQ1) :
    e.next A = if (e.pairDone A).rd = .probe then (e.pairDone A).probe else (e.pairDone A).runLoop := by
  simp only [Engine.next, h, Engine.afterPair, Engine.pairDone]

theorem Engine.next_gotTail (A : AlphaPos) {e : Engine} (h : e.point = .gotTail) :
    e.next A = ({ e with point := .putTail },
      .write (e.latch.dstAt e.r e.i) (pixelFunction A e.latch e.p0)) := by
  simp only [Engine.next, h, Engine.writeDst]

theorem Engine.next_putTail (A : AlphaPos) {e : Engine} (h : e.point = .putTail) :
    e.next A = Engine.probe { e with i := e.i + 1 } := by
  simp only [Engine.next, h]

theorem Engine.next_gotT (A : AlphaPos) {e : Engine} (h : e.point = .gotT) :
    e.next A =
      if continuesRun A e.rd e.p0 e.t then ({ e with point := .putT }, .write (e.latch.dstAt e.r e.i) e.runValue)
      else e.probe := by
  simp only [Engine.next, h, Engine.writeDst]

theorem Engine.next_putT (A : AlphaPos) {e : Engine} (h : e.point = .putT) :
    e.next A = Engine.runLoop { e with i := e.i + 1 } := by
  simp only [Engine.next, h]

/-! What `Engine.next` leaves alone. -/

/-- The fields of the engine that only acceptance, a read or a host write changes. -/
structure Engine.SameCommand (e e' : Engine) : Prop where
  phase : e'.phase = e.phase
  latch : e'.latch = e.latch
  p0 : e'.p0 = e.p0
  p1 : e'.p1 = e.p1
  t : e'.t = e.t
  mem0 : e'.mem0 = e.mem0
  interfered : e'.interfered = e.interfered

theorem Engine.SameCommand.rfl' (e : Engine) : e.SameCommand e := ⟨rfl, rfl, rfl, rfl, rfl, rfl, rfl⟩

theorem Engine.probe_sameCommand (e : Engine) : e.SameCommand e.probe.1 := by
  unfold Engine.probe Engine.probePixel Engine.readSrc
  split_ifs <;> exact ⟨rfl, rfl, rfl, rfl, rfl, rfl, rfl⟩

theorem Engine.runLoop_sameCommand (e : Engine) : e.SameCommand e.runLoop.1 := by
  unfold Engine.runLoop
  split_ifs
  · exact ⟨rfl, rfl, rfl, rfl, rfl, rfl, rfl⟩
  · exact e.probe_sameCommand

theorem Engine.next_sameCommand (A : AlphaPos) (e : Engine) : e.SameCommand (e.next A).1 := by
  unfold Engine.next
  split
  · exact e.probe_sameCommand
  · exact ⟨rfl, rfl, rfl, rfl, rfl, rfl, rfl⟩
  · exact ⟨rfl, rfl, rfl, rfl, rfl, rfl, rfl⟩
  · exact ⟨rfl, rfl, rfl, rfl, rfl, rfl, rfl⟩
  · unfold Engine.afterPair
    simp only
    split_ifs
    · have h := Engine.probe_sameCommand { e with
        accu := accuOf A e.p0 e.p1, diff := diffOf e.p0 e.p1, i := e.i + 2,
        rd := dispatchRun (accuOf A e.p0 e.p1) (diffOf e.p0 e.p1) }
      exact ⟨h.phase, h.latch, h.p0, h.p1, h.t, h.mem0, h.interfered⟩
    · have h := Engine.runLoop_sameCommand { e with
        accu := accuOf A e.p0 e.p1, diff := diffOf e.p0 e.p1, i := e.i + 2,
        rd := dispatchRun (accuOf A e.p0 e.p1) (diffOf e.p0 e.p1) }
      exact ⟨h.phase, h.latch, h.p0, h.p1, h.t, h.mem0, h.interfered⟩
  · exact ⟨rfl, rfl, rfl, rfl, rfl, rfl, rfl⟩
  · have h := Engine.probe_sameCommand { e with i := e.i + 1 }
    exact ⟨h.phase, h.latch, h.p0, h.p1, h.t, h.mem0, h.interfered⟩
  · split_ifs
    · exact ⟨rfl, rfl, rfl, rfl, rfl, rfl, rfl⟩
    · exact e.probe_sameCommand
  · have h := Engine.runLoop_sameCommand { e with i := e.i + 1 }
    exact ⟨h.phase, h.latch, h.p0, h.p1, h.t, h.mem0, h.interfered⟩

/-! One engine step. -/

/-- The state in which the engine makes its next motion. -/
def State.atMotion (s : State) : State := { s with engine := (s.engine.next s.params.alpha).1 }

/-- All that one engine step can do when it answers a next state: a word read, a word written, or the completion. -/
theorem engineStep_cases {s t : State} (h : engineStep s = .next t) :
    (∃ a, (s.engine.next s.params.alpha).2 = .read a ∧ s.params.engineReadStop a = none ∧
      t = s.atMotion.engineRead a) ∨
    (∃ a v, (s.engine.next s.params.alpha).2 = .write a v ∧ s.params.engineWriteStop a = none ∧
      t = s.atMotion.engineWrite a v) ∨
    ((s.engine.next s.params.alpha).2 = .finish ∧ t = s.atMotion.finishBlit) := by
  unfold engineStep State.perform at h
  split at h
  · next a ha =>
    split at h
    · cases h
    · next hs =>
      injection h with h
      exact .inl ⟨a, ha, hs, h.symm⟩
  · next a v ha =>
    split at h
    · cases h
    · next hs =>
      injection h with h
      exact .inr (.inl ⟨a, v, ha, hs, h.symm⟩)
  · next ha =>
    injection h with h
    exact .inr (.inr ⟨ha, h.symm⟩)

/-- Where nothing stops it, an engine step answers a next state. -/
theorem engineStep_next_of_usable {s : State}
    (hr : ∀ a, (s.engine.next s.params.alpha).2 = .read a → s.params.engineReadStop a = none)
    (hw : ∀ a v, (s.engine.next s.params.alpha).2 = .write a v → s.params.engineWriteStop a = none) :
    ∃ t, engineStep s = .next t := by
  unfold engineStep State.perform
  split
  · next a ha =>
    rw [show Params.engineReadStop _ a = none from hr a ha]
    exact ⟨_, rfl⟩
  · next a v ha =>
    rw [show Params.engineWriteStop _ a = none from hw a v ha]
    exact ⟨_, rfl⟩
  · exact ⟨_, rfl⟩

/-- The completion step (R227): IDLE, BUSY cleared, DONE set, in each of its two cases. -/
theorem State.finishBlit_cases (s : State) :
    (s.engine.Defined ∧ s.finishBlit = s.endRun) ∨ (¬ s.engine.Defined ∧ s.finishBlit = s.drawDst.endRun) := by
  unfold State.finishBlit
  split
  · exact .inl ⟨‹_›, rfl⟩
  · exact .inr ⟨‹_›, rfl⟩

/-- Taking in a word changes `p0`, `p1` or `t` only. -/
theorem Engine.receive_frame (e : Engine) (v : Word) :
    (e.receive v).phase = e.phase ∧ (e.receive v).r = e.r ∧ (e.receive v).i = e.i ∧ (e.receive v).rd = e.rd ∧
      (e.receive v).point = e.point ∧ (e.receive v).latch = e.latch ∧ (e.receive v).q0 = e.q0 ∧
      (e.receive v).q1 = e.q1 ∧ (e.receive v).mem0 = e.mem0 ∧ (e.receive v).interfered = e.interfered := by
  unfold Engine.receive
  split <;> exact ⟨by simp, by simp, by simp, by simp, by simp [*], by simp, by simp, by simp, by simp, by simp⟩

end Sys2Proof.Machine
end

