-- ==== Sys2Proof/Laws/Host.lean ====
section
/-!
SUPPORT. The host's side and the step: what a command request, a host step and a step of the machine can do.
-/

namespace Sys2Proof.Machine

/-! Command requests (R252, R254). -/

/-- A request while busy is turned away (R254). -/
theorem State.request_of_busy {s : State} (i : Instr) (f : State → State) (h : s.status.busy = true) :
    s.request i f = .next s.rejectBusy := by
  simp [State.request, h]

/-- A request while not busy is accepted and has its effect (R252). -/
theorem State.request_of_free {s : State} (i : Instr) (f : State → State) (h : s.status.busy = false) :
    s.request i f = .next (f (s.accept i)) := by
  simp [State.request, h]

/-- A BLIT on acceptance: it completes at once or starts (R225, R226). -/
theorem State.startBlit_cases (s : State) :
    (s.engine.latch.Empty ∧ s.startBlit = s.complete) ∨ (¬ s.engine.latch.Empty ∧ s.startBlit = s.beginRun) := by
  unfold State.startBlit
  split
  · exact .inl ⟨‹_›, rfl⟩
  · exact .inr ⟨‹_›, rfl⟩

/-- All that an accepted command does: it completes, with or without a write of PIX_OUT, or a BLIT starts. -/
theorem exec_accepted {i : Instr} {s t : State} (hb : s.status.busy = false) (h : exec i s = .next t) :
    t = (s.accept i).complete ∨
      ((i = .pixUnpremul ∨ i = .pixPremul ∨ i = .recipRead) ∧ ∃ v, t = ((s.accept i).setPixOut v).complete) ∨
      (isBlit i = true ∧ ¬ (s.latchFor i).Empty ∧ t = (s.accept i).beginRun) := by
  cases i <;> simp only [exec, execNop, execBlitUnpremul, execBlitPremul, execPixUnpremul, execPixPremul, execRecipRead,
    State.request_of_free _ _ hb, Host.Outcome.next.injEq] at h
  · exact .inl h.symm
  · rcases State.startBlit_cases (s.accept .blitUnpremul) with ⟨-, he⟩ | ⟨hn, he⟩
    · exact .inl (h.symm.trans he)
    · exact .inr (.inr ⟨rfl, hn, h.symm.trans he⟩)
  · rcases State.startBlit_cases (s.accept .blitPremul) with ⟨-, he⟩ | ⟨hn, he⟩
    · exact .inl (h.symm.trans he)
    · exact .inr (.inr ⟨rfl, hn, h.symm.trans he⟩)
  · exact .inr (.inl ⟨by simp, _, h.symm⟩)
  · exact .inr (.inl ⟨by simp, _, h.symm⟩)
  · exact .inr (.inl ⟨by simp, _, h.symm⟩)

/-- A command request answers a next state for every state. -/
theorem exec_answers_next (i : Instr) (s : State) : ∃ t, exec i s = .next t := by
  cases i <;> simp only [exec, execNop, execBlitUnpremul, execBlitPremul, execPixUnpremul, execPixPremul, execRecipRead,
    State.request] <;> split <;> exact ⟨_, rfl⟩

/-- All that a CMD write can do (R252, R254): turned away while busy, a command accepted, a reserved word recorded. -/
theorem commandWrite_cases {w : Word} {s t : State} (h : commandWrite w s = .next t) :
    (s.status.busy = true ∧ t = s.rejectBusy) ∨
    (s.status.busy = false ∧ ∃ i, decodeWord w = .ok i ∧ exec i s = .next t) ∨
    (s.status.busy = false ∧ (∃ e, decodeWord w = .error e) ∧ t = { s with status := s.status.onReserved }) := by
  unfold commandWrite at h
  cases hb : s.status.busy
  · split at h
    · next i hi => exact .inr (.inl ⟨rfl, i, hi, h⟩)
    · next e he =>
      refine .inr (.inr ⟨rfl, ⟨e, he⟩, ?_⟩)
      simpa [State.rejectReserved, hb] using h.symm
  · refine .inl ⟨rfl, ?_⟩
    split at h
    · next i hi =>
      cases i <;> simpa [exec, execNop, execBlitUnpremul, execBlitPremul, execPixUnpremul, execPixPremul, execRecipRead,
        State.request_of_busy _ _ hb] using h.symm
    · simpa [State.rejectReserved, hb] using h.symm

/-! Host steps. -/

/-- In IDLE a host reads the bytes of memory: no command runs that could race with it (R74). -/
theorem State.hostByte_of_idle {s : State} (h : s.engine.phase = .idle) (b : Word) :
    s.hostByte b = Memory.read s.mem b.toNat := by
  simp only [State.hostByte, State.racingPixel, h]

/-- A host write to memory that the platform serves answers a next state. -/
theorem hostWrite_to_memory {s : State} {a : Word} {size : AccessSize} (d : BusData)
    (hw : touchesWindow s.params a size = false) (hs : hostStop s.params true a size = none) :
    hostWrite a size d s = .next (s.hostStore a size d) := by
  simp [hostWrite, hw, hs]

/-- What a host read leaves: its value recorded, perhaps a draw spent, and, for POLL, what the host does next. Nothing of
the block changes (R250). -/
def State.readBy (s : State) (v : BusData) (host : List HostOp) (draws : Nat) : State :=
  { s with reads := v :: s.reads, host := host, draws := draws }

theorem State.spendDraw_cases (s : State) (a : Word) (size : AccessSize) :
    s.spendDraw a size = s ∨ s.spendDraw a size = { s with draws := s.draws + 1 } := by
  unfold State.spendDraw
  split
  · exact .inr rfl
  · exact .inl rfl

theorem hostStop_no_next {P : Params} {isWrite : Bool} {a : Word} {size : AccessSize}
    {o : Host.Outcome State Fault Refusal} (h : hostStop P isWrite a size = some o) (t : State) : o ≠ .next t := by
  obtain ⟨b, -, hb⟩ := List.exists_of_findSome?_eq_some h
  intro e
  subst e
  split at hb <;> try split at hb
  all_goals simp at hb

/-- All that a host read can do when it answers a next state. -/
theorem hostRead_cases {a : Word} {size : AccessSize} {after : BusData → State → State} {s t : State}
    (h : hostRead a size after s = .next t) :
    (definedWindowAccess s.params a size = true ∧
      t = after ((s.readOffset (s.params.windowOffset a)).setWidth 64)
        (s.afterRead ((s.readOffset (s.params.windowOffset a)).setWidth 64))) ∨
    (touchesWindow s.params a size = false ∧
      t = after (s.hostLoad a size) ((s.spendDraw a size).afterRead (s.hostLoad a size))) := by
  unfold hostRead at h
  split at h
  · split at h
    · exact .inl ⟨‹_›, by simpa using h.symm⟩
    · cases h
  · next hw =>
    split at h
    · next o ho => exact absurd h (hostStop_no_next ho t)
    · exact .inr ⟨by simpa using hw, by simpa using h.symm⟩

/-- All that a host write can do when it answers a next state. -/
theorem hostWrite_cases {a : Word} {size : AccessSize} {d : BusData} {s t : State}
    (h : hostWrite a size d s = .next t) :
    (definedWindowAccess s.params a size = true ∧
      ((Reg.atOffset (s.params.windowOffset a) = none ∧ t = s) ∨
        (∃ r, r ≠ .cmd ∧ Reg.atOffset (s.params.windowOffset a) = some r ∧ t = s.writeReg r (d.setWidth 32)) ∨
        (Reg.atOffset (s.params.windowOffset a) = some .cmd ∧ commandWrite (d.setWidth 32) s = .next t))) ∨
    (touchesWindow s.params a size = false ∧ t = s.hostStore a size d) := by
  unfold hostWrite at h
  split at h
  · split at h
    · next hd =>
      refine .inl ⟨hd, ?_⟩
      unfold writeOffset at h
      split at h
      · next hr => exact .inr (.inr ⟨hr, h⟩)
      · next r hne hr => exact .inr (.inl ⟨r, fun e => hne e, hr, by simpa using h.symm⟩)
      · next hr => exact .inl ⟨hr, by simpa using h.symm⟩
    · cases h
  · next hw =>
    split at h
    · next o ho => exact absurd h (hostStop_no_next ho t)
    · exact .inr ⟨by simpa using hw, by simpa using h.symm⟩

/-- All that one host step can do when it answers a next state. -/
theorem hostStep_cases {op : HostOp} {s t : State} (h : hostStep op s = .next t) :
    t = s ∨ (∃ r v, r ≠ .cmd ∧ t = s.writeReg r v) ∨ (∃ w, commandWrite w s = .next t) ∨
    (∃ a size d, op = .write a size d ∧ touchesWindow s.params a size = false ∧ t = s.hostStore a size d) ∨
    (∃ v hs n, t = s.readBy v hs n) ∨ (op = .reset ∧ t = s.resetBlock) := by
  cases op with
  | write a size d =>
    rcases hostWrite_cases h with ⟨-, ⟨-, rfl⟩ | ⟨r, hr, -, rfl⟩ | ⟨-, h⟩⟩ | ⟨hw, rfl⟩
    · exact .inl rfl
    · exact .inr (.inl ⟨r, _, hr, rfl⟩)
    · exact .inr (.inr (.inl ⟨_, h⟩))
    · exact .inr (.inr (.inr (.inl ⟨a, size, d, rfl, hw, rfl⟩)))
  | read a size =>
    refine .inr (.inr (.inr (.inr (.inl ?_))))
    unfold hostStep at h
    rcases hostRead_cases h with ⟨-, rfl⟩ | ⟨-, rfl⟩
    · exact ⟨_, s.host, s.draws, rfl⟩
    · rcases s.spendDraw_cases a size with e | e
      · exact ⟨_, s.host, s.draws, by rw [e]; rfl⟩
      · exact ⟨_, s.host, s.draws + 1, by rw [e]; rfl⟩
  | poll a mask value =>
    refine .inr (.inr (.inr (.inr (.inl ?_))))
    unfold hostStep at h
    rcases hostRead_cases h with ⟨-, rfl⟩ | ⟨-, rfl⟩
    · unfold pollAgain
      split
      · exact ⟨_, s.host, s.draws, rfl⟩
      · exact ⟨_, _, s.draws, rfl⟩
    · unfold pollAgain
      rcases s.spendDraw_cases a .word with e | e <;> rw [e] <;> split
      · exact ⟨_, s.host, s.draws, rfl⟩
      · exact ⟨_, _, s.draws, rfl⟩
      · exact ⟨_, s.host, s.draws + 1, rfl⟩
      · exact ⟨_, _, s.draws + 1, rfl⟩
  | reset => exact .inr (.inr (.inr (.inr (.inr ⟨rfl, by simpa [hostStep] using h.symm⟩))))

/-! Steps of the machine. -/

/-- Spending a turn changes `turns` only. -/
theorem State.spendTurn_eq (s : State) : ∃ ts, s.spendTurn = { s with turns := ts } := by
  unfold State.spendTurn
  split
  · exact ⟨_, rfl⟩
  · exact ⟨s.turns, rfl⟩
  · exact ⟨s.turns, rfl⟩

/-- All that one step of the machine can be (R258): nothing enabled, an engine step in RUN, or a host step. -/
theorem step_cases {s t : State} (h : step s = .next t) :
    (s.engine.phase = .idle ∧ s.host = [] ∧ t = s) ∨
    (s.engine.phase = .run ∧ ∃ ts, engineStep { s with turns := ts } = .next t) ∨
    (∃ op rest ts, s.host = op :: rest ∧ hostStep op { s with turns := ts, host := rest } = .next t) := by
  obtain ⟨ts, hts⟩ := s.spendTurn_eq
  unfold step takeTurn at h
  split at h
  · next hn =>
    refine .inl ?_
    unfold State.nextAgent at hn
    split at hn <;> simp_all
  · next hn =>
    refine .inr (.inl ⟨?_, ts, hts ▸ h⟩)
    unfold State.nextAgent at hn
    split at hn <;> simp_all
  · next hn =>
    unfold State.nextAgent at hn
    split at h
    · next he => split at hn <;> simp_all
    · next op rest he => exact .inr (.inr ⟨op, rest, ts, he, by rw [hts] at h; exact h⟩)

end Sys2Proof.Machine
end

