-- ==== Sys2Proof/Laws/PerInstr.lean ====
section
/-!
SUPPORT. What holds of every command as syntax, a lemma for each: its CMD32 fields are well-formed and give its row of the
opcode map (R90, R92).
-/

namespace Sys2Proof.Laws.OpcodeRow

/-- The fields of a command are a well-formed CMD32, and their word is the command's row of R92. -/
def Statement (i : Instr) : Prop := i.fields.wellFormed = true ∧ (i.fields.toWord, i) ∈ opcodeMap

theorem nop : Statement .nop := ⟨by decide, by decide⟩

theorem blitUnpremul : Statement .blitUnpremul := ⟨by decide, by decide⟩

theorem blitPremul : Statement .blitPremul := ⟨by decide, by decide⟩

theorem pixUnpremul : Statement .pixUnpremul := ⟨by decide, by decide⟩

theorem pixPremul : Statement .pixPremul := ⟨by decide, by decide⟩

theorem recipRead : Statement .recipRead := ⟨by decide, by decide⟩

end Sys2Proof.Laws.OpcodeRow
end

