-- ==== Sys2Proof/Tests/Slice0.lean ====
section
/-!
SUPPORT. Tests. Expected values come from spec/95_test_vectors.md, named at each test, or are worked by hand from the
rule named there; section 2 shows, for each obligation with hypotheses, concrete terms that meet them.
-/

namespace Sys2Proof.Tests

open Sys2Proof Sys2Proof.Machine

/-! ## 1. The model against the spec's vectors -/

/-! The CMD32 checks (R90, R92, R95): an ill-formed word for each, which the check and the decoder refuse. -/

theorem test_mbz_not_zero_refused :
    CmdWord.mbzClear { op := 0#4, mbz := 1#28 } = false ∧ CmdWord.wellFormed { op := 0#4, mbz := 1#28 } = false ∧
      decodeWord 0b00000000000000000000000000010000#32 = .error .mbzNotZero := by decide

theorem test_op_6_and_15_refused :
    CmdWord.opAssigned { op := 6#4, mbz := 0#28 } = false ∧ CmdWord.wellFormed { op := 15#4, mbz := 0#28 } = false ∧
      decodeWord 0b00000000000000000000000000000110#32 = .error .reservedOp ∧
      decodeWord 0b00000000000000000000000000001111#32 = .error .reservedOp := by decide

theorem test_op_5_accepted : CmdWord.wellFormed { op := 5#4, mbz := 0#28 } = true := by decide

theorem test_truncated_word_refused : decode [0#8, 0#8, 0#8] = .error .truncated := by decide

/-- R92: each command's word, bit by bit, with a byte left over. -/
theorem test_decode_bytes :
    decode [0b00000000#8, 0#8, 0#8, 0#8, 7#8] = .ok (.nop, [7#8]) ∧
      decode [0b00000001#8, 0#8, 0#8, 0#8, 7#8] = .ok (.blitUnpremul, [7#8]) ∧
      decode [0b00000010#8, 0#8, 0#8, 0#8, 7#8] = .ok (.blitPremul, [7#8]) ∧
      decode [0b00000011#8, 0#8, 0#8, 0#8, 7#8] = .ok (.pixUnpremul, [7#8]) ∧
      decode [0b00000100#8, 0#8, 0#8, 0#8, 7#8] = .ok (.pixPremul, [7#8]) ∧
      decode [0b00000101#8, 0#8, 0#8, 0#8, 7#8] = .ok (.recipRead, [7#8]) := by decide

/-- R62: OP lies in the byte at the lowest address; the same byte at the highest is MBZ ≠ 0. -/
theorem test_decode_byte_order : decode [0#8, 0#8, 0#8, 5#8] = .error .mbzNotZero := by decide

theorem test_decode_table_words :
    decodeTableWord 32 0 = some .nop ∧ decodeTableWord 32 1 = some .blitUnpremul ∧
      decodeTableWord 32 2 = some .blitPremul ∧ decodeTableWord 32 3 = some .pixUnpremul ∧
      decodeTableWord 32 4 = some .pixPremul ∧ decodeTableWord 32 5 = some .recipRead ∧
      decodeTableWord 32 6 = none ∧ decodeTableWord 32 16 = none := by decide

theorem test_encode_words :
    [Instr.nop, .blitUnpremul, .blitPremul, .pixUnpremul, .pixPremul, .recipRead].map encodeWord =
      [0#32, 1#32, 2#32, 3#32, 4#32, 5#32] := by decide

/-! One step of each command. -/

/-- The next state, if there is one. -/
def after (o : Host.Outcome State Fault Refusal) : Option State :=
  match o with
  | .next t => some t
  | .fault _ => none
  | .refused _ => none

/-- The state after reset with a value in PIX_IN. -/
def withPix (v : Word) : State := { State.reset with pixIn := v }

/-- The same in a build with another layout. -/
def withPixIn (A : AlphaPos) (v : Word) : State :=
  { withPix v with params := { Config.resetParams with alpha := A } }

/-- The state after reset with the parameter registers of a BLIT from 0x1000 to 0x2000, stride 16. -/
def idleBlit (w h : Word) : State :=
  { State.reset with
    srcAddr := 0x1000#32, srcStride := 16#32, dstAddr := 0x2000#32, dstStride := 16#32, width := w, height := h }

/-- The same BLIT in RUN, with the engine at a place of the row procedure. -/
def running (w h : Word) (r i : Nat) (rd : RunState) (point : Point) : State :=
  let s := ((idleBlit w h).accept .blitUnpremul).beginRun
  { s with engine := { s.engine with r := r, i := i, rd := rd, point := point } }

/-- A 1 × 1 BLIT at its start. -/
def started : State := running 1#32 1#32 0 0 .probe .rowStart

/-- A 1 × 1 BLIT before its completion step. -/
def finishing : State := running 1#32 1#32 0 0 .probe .putTail

/-- STATUS bits of a state. -/
def statusOf (t : Option State) : Option Word := t.map (fun t => t.regValue .status)

/-- S7. -/
theorem test_nop : statusOf (after (exec .nop State.reset)) = some 2#32 := by decide

/-- S11. -/
theorem test_nop_keeps_errors :
    statusOf (after (exec .nop { State.reset with status := ⟨false, true, true, false⟩ })) = some 6#32 := by decide

/-- Section 2.1: bits 31:8 of PIX_IN are ignored; a value that is no exact division. -/
theorem test_recip_read :
    (after (exec .recipRead (withPix 0x12345680#32))).map State.pixOut = some 0x0001FE00#32 ∧
      (after (exec .recipRead (withPix 0x000000FE#32))).map State.pixOut = some 0x00010103#32 := by decide

theorem test_recip_read_zero : (after (exec .recipRead (withPix 0xFFFFFF00#32))).map State.pixOut = some 0#32 := by decide

/-- Section 2.2, pixel function, `ALPHA_OFFSET = 24`. -/
theorem test_pix_unpremul :
    [0x80402010#32, 0xFF804020#32, 0x00FFFFFF#32, 0x10200804#32, 0x80808080#32, 0x40FF8020#32].map
        (fun v => (after (exec .pixUnpremul (withPix v))).map State.pixOut) =
      [some 0x807F3F1F#32, some 0xFF804020#32, some 0#32, some 0x10FF7F3F#32, some 0x80FFFFFF#32,
        some 0x40FFFF7F#32] := by decide

/-- Section 2.2, the other three layouts. -/
theorem test_pix_unpremul_layouts :
    (after (exec .pixUnpremul (withPixIn .apos0 0x20100880#32))).map State.pixOut = some 0x3F1F0F80#32 ∧
      (after (exec .pixUnpremul (withPixIn .apos1 0x10088020#32))).map State.pixOut = some 0x1F0F803F#32 ∧
      (after (exec .pixUnpremul (withPixIn .apos2 0x10802008#32))).map State.pixOut = some 0x1F803F0F#32 := by decide

/-- Section 2.3, pixel function, `ALPHA_OFFSET = 24`. -/
theorem test_pix_premul :
    [0x80FF8040#32, 0xFF123456#32, 0x00FFFFFF#32, 0x98E5D4C1#32, 0x807F3F1F#32, 0x01FFFFFF#32].map
        (fun v => (after (exec .pixPremul (withPix v))).map State.pixOut) =
      [some 0x80804020#32, some 0xFF123456#32, some 0#32, some 0x98887E73#32, some 0x80402010#32,
        some 0x01010101#32] := by decide

/-- Section 2.3, the other three layouts. -/
theorem test_pix_premul_layouts :
    (after (exec .pixPremul (withPixIn .apos0 0x3F1F0F80#32))).map State.pixOut = some 0x20100880#32 ∧
      (after (exec .pixPremul (withPixIn .apos1 0x1F0F803F#32))).map State.pixOut = some 0x10088020#32 ∧
      (after (exec .pixPremul (withPixIn .apos2 0x1F803F0F#32))).map State.pixOut = some 0x10802008#32 := by decide

/-- Section 1.2: the four empty rectangles. -/
theorem test_empty_blits :
    statusOf (after (exec .blitPremul (idleBlit 0#32 5#32))) = some 2#32 ∧
      statusOf (after (exec .blitUnpremul (idleBlit 4#32 0#32))) = some 2#32 ∧
      statusOf (after (exec .blitUnpremul (idleBlit 4#32 0xFFFFFFFF#32))) = some 2#32 ∧
      statusOf (after (exec .blitPremul (idleBlit 0x80000000#32 1#32))) = some 2#32 := by decide

/-- R226: a non-empty BLIT_UNPREMUL. -/
theorem test_blit_unpremul_starts :
    (after (exec .blitUnpremul (idleBlit 4#32 1#32))).map
        (fun t => (t.regValue .status, t.engine.phase, t.engine.latch.op, t.engine.latch.width)) =
      some (1#32, .run, .blitUnpremul, 4) := by decide

/-- R226: a non-empty BLIT_PREMUL; DONE is cleared. -/
theorem test_blit_premul_starts :
    (after (exec .blitPremul { idleBlit 4#32 1#32 with status := ⟨false, true, false, true⟩ })).map
        (fun t => (t.regValue .status, t.engine.phase, t.engine.latch.op, t.engine.latch.height)) =
      some (9#32, .run, .blitPremul, 1) := by decide

/-! Registers, the window, memory, reset. -/

/-- S8, S9, S10, S16. -/
theorem test_reserved_words :
    statusOf (after (commandWrite 6#32 State.reset)) = some 4#32 ∧
      statusOf (after (commandWrite 0x10#32 { State.reset with status := ⟨false, true, false, false⟩ })) = some 6#32 ∧
      statusOf (after (commandWrite 0xFFFFFFFF#32 State.reset)) = some 4#32 ∧
      statusOf (after (commandWrite 7#32 started)) = some 9#32 := by decide

/-- S12, S13, S14: a STATUS write from `0xE`. -/
theorem test_status_write :
    [1#32, 4#32, 0xE#32].map (fun v =>
        (State.writeReg { State.reset with status := ⟨false, true, true, true⟩ } .status v).regValue .status) =
      [0xE#32, 0xA#32, 0#32] := by decide

/-- S1, S2, S3, S4, B4. -/
theorem test_registers :
    State.reset.regValue .config = 0x00001003#32 ∧ (withPixIn .apos0 0#32).regValue .config = 0x00001000#32 ∧
      State.reset.regValue .cmd = 0#32 ∧ (State.reset.writeReg .ctrl 0xFFFFFFFF#32).regValue .ctrl = 1#32 ∧
      (State.reset.writeReg .srcAddr 0x1003#32).regValue .srcAddr = 0x1000#32 := by decide

/-- Section 1.1: the little-endian bytes of the fourth pixel; memory keeps its canonical form. -/
theorem test_memory_bytes :
    Memory.writeWord [] 0x200C#32 0x807F3F1F#32 =
        [(0x200C, 0x1F#8), (0x200D, 0x3F#8), (0x200E, 0x7F#8), (0x200F, 0x80#8)] ∧
      Memory.writeWord (Memory.writeWord [] 0x200C#32 0x807F3F1F#32) 0x200C#32 0#32 = [] := by decide

/-- R62, R65: a word at the top of the address space wraps. -/
theorem test_memory_wraps :
    Memory.readWord (Memory.writeWord [] 0xFFFFFFFE#32 0x11223344#32) 0#32 = 0x00001122#32 := by decide

/-- Section 2.5: `accu` and `diff` of the six probe pairs, and the state that follows. -/
theorem test_probe_pairs :
    [(0xFF804020#32, 0xFF112233#32), (0xFF804020#32, 0xFF804020#32), (0x80402010#32, 0x80402010#32),
        (0x80402010#32, 0x40201008#32), (0x80402010#32, 0x80402011#32), (0xFF000000#32, 0xFE000000#32)].map
        (fun p => (accuOf .apos3 p.1 p.2, diffOf p.1 p.2, dispatchRun (accuOf .apos3 p.1 p.2) (diffOf p.1 p.2))) =
      [(0#32, 0x00916213#32, .solidRun), (0#32, 0#32, .solidRun), (0xFFFFFF02#32, 0#32, .constantRun),
        (0xFFFFFEC2#32, 0xC0603018#32, .probe), (0xFFFFFF02#32, 1#32, .probe),
        (0xFFFFFFFF#32, 0x01000000#32, .probe)] := by decide

/-- B2, B3: a negative stride, and source addresses that wrap. -/
theorem test_addresses :
    ({ Latch.reset with src := 0x5010#32, sstride := -16 } : Latch).srcAt 1 0 = 0x5000#32 ∧
      ({ Latch.reset with src := 0xFFFFFFF8#32 } : Latch).srcAt 0 2 = 0#32 := by decide

/-- B5, B6, B7, B8: which commands are well-defined. -/
theorem test_well_defined :
    ¬ Latch.WellDefined { Latch.reset with src := 0x1000#32, dst := 0x1004#32, width := 2, height := 1 } ∧
      ¬ Latch.WellDefined { Latch.reset with src := 0x1000#32, dst := 0x2000#32, width := 1, height := 2 } ∧
      Latch.WellDefined { Latch.reset with src := 0x1000#32, dst := 0x2000#32, dstride := 8, width := 2, height := 2 } ∧
      Latch.WellDefined
        { Latch.reset with src := 0x1000#32, sstride := 8, dst := 0x1000#32, dstride := 8, width := 2, height := 2 } := by
  decide

/-- Section 2.8: right after reset every register but CONFIG reads 0, and memory lists nothing. -/
theorem test_reset :
    Reg.all.map State.reset.regValue =
        [0x00001003#32, 0#32, 0#32, 0#32, 0#32, 0#32, 0#32, 0#32, 0#32, 0#32, 0#32, 0#32] ∧
      State.reset.engine.phase = .idle ∧ State.reset.Inv ∧ Memory.wf State.reset.mem := by decide

/-- The fixed interface: the step after reset runs the placed command word. -/
theorem test_fetch_word_runs :
    statusOf (after (step (State.reset.withFetchWord 32 0))) = some 2#32 ∧
      (after (step ((withPix 0x80#32).withFetchWord 32 5))).map State.pixOut = some 0x0001FE00#32 := by decide

/-- R98: a pseudo-instruction is its register writes, its command and its WAIT. -/
theorem test_blit_expansion :
    (Stmt.expand Config.resetParams (.blitAndPremultiply 0x4000#32 16#32 0x3000#32 12#32 2#32 2#32)) =
      [.write 0x10000018#32 .word 0x4000#64, .write 0x1000001C#32 .word 16#64, .write 0x10000010#32 .word 0x3000#64,
        .write 0x10000014#32 .word 12#64, .write 0x10000020#32 .word 2#64, .write 0x10000024#32 .word 2#64,
        .write 0x1000000C#32 .word 2#64, .poll 0x10000008#32 1#32 0#32] := by decide

/-! ## 2. Witnesses: concrete terms that meet the hypotheses of each obligation -/

/-- Whether an outcome is a next state. -/
def goesOn (o : Host.Outcome State Fault Refusal) : Bool := (after o).isSome

/-- A property of every entry of a list, checked entry by entry. -/
theorem forall_of_all {α : Type} {p : α → Prop} [DecidablePred p] {l : List α}
    (h : l.all (fun x => decide (p x)) = true) : ∀ x ∈ l, p x := by simpa using h

/-- A CMD write of a word. -/
def cmdWrite (w : Word) : HostOp := .write (Config.resetParams.regAddr .cmd) .word (w.setWidth 64)

/-- A 1 × 2 BLIT whose destination is one word for both rows (B6), before its completion step. -/
def overlapping : State :=
  let s := running 1#32 2#32 1 0 .probe .putTail
  { s with engine := { s.engine with latch := { s.engine.latch with dstride := 0 } } }

theorem witness_DecodeReadsExactlyWhatEncodeWrites :
    decode (encode .pixPremul ++ [9#8]) = .ok (.pixPremul, [9#8]) := by decide

/-- The boundaries of the reserved words, from below and above, idle and busy. -/
theorem witness_ReservedWordSetsErrOpcodeOnly :
    (∀ w ∈ [6#32, 15#32, 16#32, 0xFFFFFFFF#32], 6 ≤ w.toNat % 16 ∨ w.toNat / 16 ≠ 0) ∧
      ¬ (6 ≤ (5#32).toNat % 16 ∨ (5#32).toNat / 16 ≠ 0) ∧ State.reset.status.busy = false ∧
      started.status.busy = true :=
  ⟨forall_of_all (by decide), by decide, by decide, by decide⟩

theorem witness_StepRunsDecodedCommand :
    let s : State := { State.reset with host := [cmdWrite 0#32] }
    s.nextAgent = some .host ∧ decode (bytesOfWord ((0#64).setWidth 32)) = .ok (.nop, []) ∧
      Instr.wellFormed .nop = true := by decide

/-- For NopSetsDoneOnly, RecipReadWritesCeilingReciprocal, PixUnpremulWritesPixOut, PixPremulWritesPixOut,
CommandWriteWhileBusyIsDropped, ReservedWordSetsErrOpcodeOnly: an idle and a busy state. -/
theorem witness_idle_and_busy : State.reset.status.busy = false ∧ started.status.busy = true := by decide

/-- For the laws of PixUnpremulWritesPixOut, PixPremulWritesPixOut, OpaquePixelIsFixedPoint: a transparent, an opaque and
a superluminant pixel in each layout. -/
theorem witness_PixelLaws :
    ∀ A ∈ [AlphaPos.apos0, .apos1, .apos2, .apos3],
      A.alpha (A.pack 0#8 1#8 2#8 3#8) = 0#8 ∧ A.alpha (A.pack 255#8 1#8 2#8 3#8) = 255#8 ∧
      A.alpha (A.pack 1#8 2#8 3#8 4#8) ≠ 0#8 ∧ A.alpha (A.pack 1#8 2#8 3#8 4#8) < A.red (A.pack 1#8 2#8 3#8 4#8) ∧
      A.alpha (A.pack 1#8 2#8 3#8 4#8) < A.green (A.pack 1#8 2#8 3#8 4#8) ∧
      A.alpha (A.pack 1#8 2#8 3#8 4#8) < A.blue (A.pack 1#8 2#8 3#8 4#8) := by decide

/-- Width 0, height 0, and the most negative width. -/
theorem witness_EmptyBlitCompletesAtOnce :
    (idleBlit 0#32 5#32).width.toInt ≤ 0 ∧ (idleBlit 4#32 0#32).height.toInt ≤ 0 ∧
      (idleBlit 0x80000000#32 1#32).width.toInt ≤ 0 ∧ (idleBlit 0#32 5#32).status.busy = false := by decide

/-- The least and the greatest positive width. -/
theorem witness_NonEmptyBlitStarts :
    0 < (idleBlit 1#32 1#32).width.toInt ∧ 0 < (idleBlit 0x7FFFFFFF#32 1#32).width.toInt ∧
      0 < (idleBlit 1#32 1#32).height.toInt ∧ (idleBlit 1#32 1#32).status.busy = false := by decide

/-- Also for CommandFrame: a next state of a command, idle and busy. -/
theorem witness_AcceptanceLatchesOperands :
    goesOn (exec .blitUnpremul (idleBlit 1#32 1#32)) = true ∧ goesOn (exec .nop started) = true ∧
      goesOn (engineStep started) = true := by decide

/-- Memory in the idle state, and a byte outside DF in RUN. -/
theorem witness_ResetStepSetsResetValues :
    State.reset.engine.phase = .idle ∧ started.engine.phase = .run ∧ started.engine.latch.inDst 0x1FFF#32 = false ∧
      started.engine.latch.inDst 0x2000#32 = true ∧ started.engine.latch.inDst 0x2003#32 = true ∧
      started.engine.latch.inDst 0x2004#32 = false := by decide

theorem witness_ResetDuringRunDrawsDestination :
    started.Inv ∧ started.engine.phase = .run ∧ 0x2000#32 ∈ started.engine.latch.dstFootprint ∧
      started.params.engineWriteStop 0x2000#32 = none ∧ started.engine.latch.inDst 0x2004#32 = false := by
  and_intros <;> decide

theorem witness_RegisterWriteThenRead : Reg.width ≠ .cmd ∧ Reg.status ≠ .width := by decide

/-- A byte at the window's first address, a misaligned word, a doubleword at its last word, a word that begins below it
and one that ends above it; the first and the last reserved offset. -/
theorem witness_WindowTakesAlignedWordsOnly :
    let P := Config.resetParams
    touchesWindow P P.regBase .byte = true ∧ touchesWindow P (P.regBase + 2#32) .word = true ∧
      P.windowOffset (P.regBase + 2#32) % 4 ≠ 0 ∧ touchesWindow P (P.regBase + 0xFC#32) .dword = true ∧
      touchesWindow P (P.regBase - 3#32) .word = true ∧ 256 ≤ P.windowOffset (P.regBase - 3#32) ∧
      touchesWindow P (P.regBase - 4#32) .word = false ∧ touchesWindow P (P.regBase + 0x100#32) .word = false ∧
      Reg.atOffset 0x30 = none ∧ Reg.atOffset 0xFC = none ∧ Reg.atOffset 0x2C = some .pixOut := by decide

/-- Also for EachDestinationWordIsWrittenOnceInOrder: a completion step. -/
theorem witness_StatusWriteClearsByOnes :
    (finishing.engine.next finishing.params.alpha).2 = .finish ∧
      (after (engineStep finishing)).map (fun t => t.engine.phase) = some .idle := by decide

theorem witness_ConfigIsConstant : goesOn (step State.reset) = true := by decide

/-- PIX_OUT changes by a command, and by reset. -/
theorem witness_OnlySinglePixelCommandsWritePixOut :
    (after (step { withPix 1#32 with host := [cmdWrite 5#32] })).map (fun t => t.pixOut) = some 0x00FF0000#32 ∧
      (after (step { State.reset with pixOut := 7#32, host := [.reset] })).map (fun t => t.pixOut) = some 0#32 := by
  decide

/-- Each error bit falls by a STATUS write, and by reset. -/
theorem witness_ErrorBitsAreSticky :
    let s : State := { State.reset with status := ⟨false, false, true, true⟩ }
    statusOf (after (step { s with host := [.write (s.params.regAddr .status) .word 4#64] })) = some 8#32 ∧
      statusOf (after (step { s with host := [.write (s.params.regAddr .status) .word 8#64] })) = some 4#32 ∧
      statusOf (after (step { s with host := [.reset] })) = some 0#32 := by decide

/-- BUSY rises, falls by the completion step, falls by reset. -/
theorem witness_BusyRisesAndFallsAsTheStatusTableSays :
    statusOf (after (step { idleBlit 1#32 1#32 with host := [cmdWrite 1#32] })) = some 1#32 ∧
      statusOf (after (step finishing)) = some 2#32 ∧
      (after (hostStep .reset started)).map (fun t => t.status.busy) = some false := by decide

/-- The five cases: who can move. -/
theorem witness_InterleavingOfHostAndEngine :
    State.reset.nextAgent = none ∧ { State.reset with host := [.reset] }.nextAgent = some .host ∧
      started.nextAgent = some .engine ∧
      { started with host := [.reset], turns := [.host] }.nextAgent = some .host ∧
      { started with host := [.reset], turns := [.engine] }.nextAgent = some .engine := by decide

/-- Alpha at 1 and 255, two alphas in order, an exact and an inexact entry; for ReciprocalTableProperties and
LookupDivideIsFloorQuotient. -/
theorem witness_ReciprocalTableProperties :
    1#8 ≠ 0#8 ∧ 255#8 ≠ 0#8 ∧ 254#8 < 255#8 ∧ (240#8).toNat ∈ exactReciprocals ∧ (7#8).toNat ∉ exactReciprocals := by
  decide

/-- Each case of the laws of a channel, at equality and just beyond it. -/
theorem witness_UnpremulChannelLaws :
    clampInput 1#8 1#8 false ≤ (1#8).toNat ∧ 128#8 ≤ 128#8 ∧ 1#8 ≠ 0#8 ∧ 1#8 < 2#8 ∧ 254#8 ≤ 255#8 := by decide

/-- A pair on the list of R174 and one that is not. -/
theorem witness_PremulChannelLaws :
    ((229, 152), (premulChannel 229#8 152#8).toNat) ∈ premulShortfalls ∧
      ((128, 128), (premulChannel 128#8 128#8).toNat) ∉ premulShortfalls ∧ 3#8 ≤ 4#8 := by decide

/-- The least and greatest offset, a colour at alpha, a colour above alpha with the clamp on. -/
theorem witness_PositionedShiftForms :
    0 ∈ [0, 8, 16, 24] ∧ 24 ∈ [0, 8, 16, 24] ∧ (255#8 ≤ 255#8 ∨ false = true) ∧ (2#8 ≤ 1#8 ∨ true = true) := by decide

/-- An alpha of each side of RoundTripError. -/
theorem witness_RoundTripError :
    125 ≤ (125#8).toNat ∧ ¬ (125 ≤ (124#8).toNat ∨ (124#8).toNat = 85 ∨ (124#8).toNat = 102 ∨ (124#8).toNat = 119 ∨
      (124#8).toNat = 120) ∧ 124#8 ≠ 0#8 := by decide

theorem witness_WordAccessesAreLittleEndian :
    Memory.wf [(0x200C, 0x1F#8)] ∧ ∀ k < 4, 4 ≠ ((0#32).toNat + k) % 2 ^ 32 := by decide

/-- A state of the invariant about to read, and one about to write. -/
theorem witness_EngineAddressesAreAligned :
    started.Inv ∧ (started.engine.next started.params.alpha).2 = .read 0x1000#32 ∧
      (running 1#32 1#32 0 0 .probe .gotTail).Inv ∧
      ((running 1#32 1#32 0 0 .probe .gotTail).engine.next .apos3).2 = .write 0x2000#32 0#32 := by
  and_intros <;> decide

/-- Also for EngineStepFrame. -/
theorem witness_EngineStaysInFootprints :
    started.Inv ∧ started.engine.phase = .run ∧ goesOn (engineStep started) = true ∧
      started.engine.latch.inDst 0x2004#32 = false := by
  and_intros <;> decide

/-- Each case of WellDefinedSpecialCases: aliased, disjoint, one row, rows apart by exactly their width. -/
theorem witness_WellDefinedSpecialCases :
    let a : Latch := { Latch.reset with src := 0x1000#32, dst := 0x1000#32, width := 2, height := 1 }
    let b : Latch := { Latch.reset with src := 0x1000#32, dst := 0x2000#32, dstride := -8, width := 2, height := 2 }
    a.DstInjective ∧ a.src = a.dst ∧ a.sstride = a.dstride ∧ b.DstInjective ∧
      (∀ w ∈ b.srcFootprint, w ∉ b.dstFootprint) ∧ a.height = 1 ∧ 4 * a.width ≤ 2 ^ 32 ∧ 4 * b.width ≤ |b.dstride| ∧
      b.height * |b.dstride| ≤ 2 ^ 32 :=
  ⟨by decide, by decide, by decide, by decide, forall_of_all (by decide), by decide, by decide, by decide, by decide⟩

theorem witness_NotWellDefinedDrawsDestination :
    overlapping.Inv ∧ overlapping.engine.phase = .run ∧ ¬ overlapping.engine.latch.WellDefined ∧
      (∀ w ∈ overlapping.engine.latch.dstFootprint, overlapping.params.engineWriteStop w = none) ∧
      (overlapping.engine.next overlapping.params.alpha).2 = .finish ∧
      overlapping.engine.latch.inDst 0x2004#32 = false :=
  ⟨by decide, by decide, by decide, forall_of_all (by decide), by decide, by decide⟩

/-- The first and the last byte of a source and of a destination word, and a write that only straddles into one. -/
theorem witness_HostWriteToFootprintDrawsDestination_store :
    ∀ x ∈ [(0x1000#32, AccessSize.byte, 0x1000#32), (0x1003#32, .byte, 0x1003#32), (0x2000#32, .byte, 0x2000#32),
        (0x2003#32, .byte, 0x2003#32), (0x1FFE#32, .word, 0x2000#32)],
      touchesWindow started.params x.1 x.2.1 = false ∧ goesOn (hostStep (.write x.1 x.2.1 0#64) started) = true ∧
        x.2.2 ∈ span x.1 x.2.1.bytes ∧
        (started.engine.latch.inSrc x.2.2 = true ∨ started.engine.latch.inDst x.2.2 = true) := by decide

theorem witness_HostWriteToFootprintDrawsDestination_steps :
    let s : State := { started with engine := { started.engine with interfered := true } }
    let u : State := { finishing with engine := { finishing.engine with interfered := true } }
    s.Inv ∧ s.engine.phase = .run ∧ (after (step s)).map (fun t => t.engine.phase) = some .run ∧ u.Inv ∧
      u.engine.phase = .run ∧ (∀ w ∈ u.engine.latch.dstFootprint, u.params.engineWriteStop w = none) ∧
      (u.engine.next u.params.alpha).2 = .finish ∧ u.engine.latch.inDst 0x2004#32 = false :=
  ⟨by and_intros <;> decide, by decide, by decide, by and_intros <;> decide, by decide, forall_of_all (by decide),
    by decide, by decide⟩

theorem witness_HostReadOfDestinationIsRaceOfTwo :
    started.Inv ∧ started.engine.phase = .run ∧ started.engine.Defined ∧ (0, 0) ∈ started.engine.latch.pixels ∧
      touchesWindow started.params (started.engine.latch.dstAt 0 0) .word = false ∧
      hostStop started.params false (started.engine.latch.dstAt 0 0) .word = none := by
  and_intros <;> first | rfl | decide

/-- A read, a poll, a write just beside the footprints, and a byte as RUN and IDLE show it. -/
theorem witness_HarmlessHostAccesses :
    goesOn (hostStep (.read 0x1000#32 .word) started) = true ∧
      goesOn (hostStep (.poll 0x1000#32 0#32 0#32) started) = true ∧
      touchesWindow started.params 0x1FFC#32 .word = false ∧
      (∀ b ∈ span 0x1FFC#32 4, started.engine.latch.inSrc b = false ∧ started.engine.latch.inDst b = false) ∧
      goesOn (hostStep (.write 0x1FFC#32 .word 1#64) started) = true ∧ 0x2000#32 ∉ span 0x1FFC#32 4 ∧
      State.reset.engine.phase = .idle ∧ started.engine.latch.inDst 0x2004#32 = false :=
  ⟨by decide, by decide, by decide, forall_of_all (by decide), by decide, by decide, by decide, by decide⟩

/-- The host write clause: each size, the misaligned doubleword that wraps round the top of the address space among them. -/
theorem witness_HarmlessHostAccesses_store :
    ∀ x ∈ [(0x1003#32, AccessSize.byte), (0x2002#32, .half), (0x2000#32, .word), (0xFFFFFFFD#32, .dword)],
      Memory.wf State.reset.mem ∧ touchesWindow State.reset.params x.1 x.2 = false ∧
        (hostStop State.reset.params true x.1 x.2).isNone = true ∧ State.reset.engine.phase = .idle := by decide

/-- R62, R80: a misaligned doubleword lies little-endian across the top of the address space, and reads back. -/
theorem test_host_store_wraps :
    (after (hostStep (.write 0xFFFFFFFD#32 .dword 0x8877665544332211#64) State.reset)).map
        (fun t => (t.mem, t.hostLoad 0xFFFFFFFD#32 .dword)) =
      some ([(0, 0x44#8), (1, 0x55#8), (2, 0x66#8), (3, 0x77#8), (4, 0x88#8), (0xFFFFFFFD, 0x11#8),
        (0xFFFFFFFE, 0x22#8), (0xFFFFFFFF, 0x33#8)], 0x8877665544332211#64) := by decide

/-- A pair with one pixel left after it, and the two probe pairs that R196 tells apart. -/
theorem witness_RunDispatchAfterPair :
    let e := (running 3#32 1#32 0 0 .probe .putQ1).engine
    e.point = .putQ1 ∧ e.i + 2 < e.latch.width.toNat ∧
      accuOf .apos3 0x80402010#32 0x40201008#32 &&& diffOf 0x80402010#32 0x40201008#32 ≠ 0#32 := by decide

/-- A pixel that continues each run, one that breaks each, and a run with one pixel left. -/
theorem witness_RunsContinueOrBreak :
    let e := (running 4#32 1#32 0 2 .solidRun .gotT).engine
    e.point = .gotT ∧ e.i < e.latch.width.toNat ∧ e.rd = .solidRun ∧
      AlphaPos.alpha .apos3 { e with t := 0xFF000000#32 }.t = 255#8 ∧ AlphaPos.alpha .apos3 e.t ≠ 255#8 ∧
      { e with rd := .constantRun }.t = { e with rd := .constantRun }.p0 ∧
      { e with rd := .constantRun, t := 1#32 }.t ≠ e.p0 ∧ { e with point := .putT }.i + 1 < e.latch.width.toNat ∧
      { e with point := .putT, i := 3 }.i + 1 = e.latch.width.toNat := by decide

/-- A row of exactly two pixels, in memory that admits the four accesses. -/
theorem witness_ProbePairReadsTwoWritesTwo :
    let s := running 2#32 1#32 0 0 .probe .rowStart
    let e := (s.engine.next s.params.alpha).1
    s.engine.phase = .run ∧ s.host = [] ∧ e.point = .gotP0 ∧
      s.params.engineReadStop (e.latch.srcAt e.r e.i) = none ∧
      s.params.engineReadStop (e.latch.srcAt e.r (e.i + 1)) = none ∧
      s.params.engineWriteStop (e.latch.dstAt e.r e.i) = none ∧
      s.params.engineWriteStop (e.latch.dstAt e.r (e.i + 1)) = none := by decide

/-- The other ways into a pair: after another pair, after a broken solid run, and at a later row's first probe from a pair,
a run and a tail. -/
theorem witness_ProbePairReadsTwoWritesTwo_entries :
    ∀ x ∈ [(running 4#32 1#32 0 0 .probe .putQ1, 2), (running 4#32 1#32 0 2 .solidRun .gotT, 2),
        (running 2#32 2#32 0 0 .probe .putQ1, 0), (running 3#32 2#32 0 2 .solidRun .putT, 0),
        (running 3#32 2#32 0 2 .probe .putTail, 0)],
      let e := ({ x.1.engine with p1 := 1#32 }.next x.1.params.alpha).1
      e.point = .gotP0 ∧ e.i = x.2 := by decide

/-- A row's end by a pair that enters a run, by a run and by a tail, with a row to come and without; and a row of one
pixel. -/
theorem witness_RowEndGoesToNextRowOrCompletion :
    (∀ e ∈ [(running 2#32 2#32 0 0 .probe .putQ1).engine, (running 3#32 2#32 0 2 .constantRun .putT).engine,
        (running 3#32 2#32 0 2 .probe .putTail).engine, (running 1#32 2#32 0 0 .probe .putTail).engine],
      e.placeOk = true ∧ 0 < e.latch.width ∧ e.writtenInRow = e.latch.width.toNat ∧
        e.r + 1 < e.latch.height.toNat) ∧
      ∀ e ∈ [(running 2#32 1#32 0 0 .probe .putQ1).engine, (running 3#32 1#32 0 2 .constantRun .putT).engine,
        (running 3#32 1#32 0 2 .probe .putTail).engine],
      e.placeOk = true ∧ 0 < e.latch.width ∧ e.writtenInRow = e.latch.width.toNat ∧
        e.latch.height.toNat ≤ e.r + 1 := by decide

theorem witness_CompletionStepAfterLastWrite :
    finishing.Inv ∧ finishing.engine.phase = .run ∧ finishing.engine.r + 1 = finishing.engine.latch.height.toNat ∧
      finishing.engine.writtenInRow = finishing.engine.latch.width.toNat ∧ finishing.engine.Defined := by
  and_intros <;> decide

/-- The platform with the 1 × 1 BLIT's source word, or its destination word, in a device; and the window over each. -/
theorem witness_EngineFaultsOutsideMemory :
    let w := running 1#32 1#32 0 0 .probe .gotTail
    let dev (s : State) (a : Nat) : State := { s with params := { s.params with regions := [⟨a, 4, .device⟩] } }
    let win (s : State) (a : Word) : State := { s with params := { s.params with regBase := a } }
    (started.engine.next started.params.alpha).2 = .read 0x1000#32 ∧
      (w.engine.next w.params.alpha).2 = .write 0x2000#32 0#32 ∧
      (∃ b ∈ span 0x1000#32 4, (win started 0x1003#32).params.inWindow b = true) ∧
      (∃ b ∈ span 0x2000#32 4, (win w 0x1F01#32).params.inWindow b = true) ∧
      (∃ b ∈ span 0x1000#32 4, (dev started 0x1003).params.kindAt b ≠ none ∧
        (dev started 0x1003).params.kindAt b ≠ some .readOnly) ∧
      (∃ b ∈ span 0x2000#32 4, (dev w 0x1FFD).params.kindAt b ≠ none ∧
        (dev w 0x1FFD).params.kindAt b ≠ some .writeOnly) ∧
      (∀ b ∈ span 0x1000#32 4, started.params.inWindow b = false ∧ started.params.kindAt b = none) ∧
      ∀ b ∈ span 0x2000#32 4, w.params.inWindow b = false ∧ w.params.kindAt b = none :=
  ⟨by decide, by decide, ⟨0x1003#32, by decide⟩, ⟨0x2000#32, by decide⟩, ⟨0x1003#32, by decide⟩,
    ⟨0x2000#32, by decide⟩, forall_of_all (by decide), forall_of_all (by decide)⟩

/-- For StepKeepsInvariant: the invariant, in IDLE and in RUN, and a step of each. -/
theorem witness_StepKeepsInvariant :
    State.reset.Inv ∧ started.Inv ∧ goesOn (step { State.reset with host := [.reset] }) = true ∧
      goesOn (step started) = true := by
  and_intros <;> decide

/-- A command in RUN, defined, with every conjunct of its progress. -/
theorem witness_StepKeepsProgress :
    started.Inv ∧ started.engine.phase = .run ∧ started.engine.Defined ∧ started.ProgressInv ∧
      goesOn (step started) = true := by
  refine ⟨by and_intros <;> decide, rfl, by and_intros <;> decide, fun _ _ => ⟨?_, ?_, ?_⟩, by decide⟩
  · exact show ∀ p ∈ started.engine.latch.pixels, started.engine.Written p →
      Memory.readWord started.mem (started.engine.latch.dstAt p.1 p.2) = started.finalWord p by decide
  · exact show ∀ p ∈ started.engine.latch.pixels, ¬ started.engine.Written p →
      Memory.readWord started.mem (started.engine.latch.srcAt p.1 p.2) =
        Memory.readWord started.engine.mem0 (started.engine.latch.srcAt p.1 p.2) by decide
  · exact trivial

/-- A command about to make its only write, and one with it made. -/
theorem witness_EachDestinationWordIsWrittenOnceInOrder :
    let s := running 1#32 1#32 0 0 .probe .gotTail
    let u : State := { finishing with trace := [.write 0x2000#32 0#32] }
    s.Inv ∧ s.WritesInv ∧ goesOn (step s) = true ∧ u.Inv ∧ u.WritesInv ∧ u.engine.phase = .run ∧
      (after (engineStep u)).map (fun t => t.engine.phase) = some .idle := by
  and_intros <;> decide

theorem witness_RunningBlitCompletes :
    started.Inv ∧ started.engine.phase = .run ∧ started.host = [] ∧
      started.engine.latch.UsableOn started.params :=
  ⟨by and_intros <;> decide, by decide, by decide, forall_of_all (by decide), forall_of_all (by decide)⟩

theorem witness_BlitTransformsEveryPixel :
    let s := idleBlit 2#32 2#32
    s.Inv ∧ s.status.busy = false ∧ s.host = [] ∧ 0 < s.width.toInt ∧ 0 < s.height.toInt ∧
      (s.latchFor .blitPremul).WellDefined ∧ (s.latchFor .blitPremul).UsableOn s.params ∧
      (s.latchFor .blitPremul).inDst 0x2008#32 = false :=
  ⟨by and_intros <;> decide, by decide, by decide, by decide, by decide, by and_intros <;> decide,
    ⟨forall_of_all (by decide), forall_of_all (by decide)⟩, by decide⟩

end Sys2Proof.Tests
end

/-! ## The parameters of the build, and CONFIG

CONFIG is made of `params` alone (R23), so it is constant because every operation leaves `params` as it is: one lemma per
operation, assembled along the inversion lemmas of the engine's step, the host's step and the machine's. -/

namespace Sys2Proof.Machine

/-! What leaves the parameters unchanged. -/

@[simp] theorem State.writeReg_params (s : State) (r : Reg) (v : Word) : (s.writeReg r v).params = s.params := by
  cases r <;> rfl

@[simp] theorem State.readBy_params (s : State) (v : BusData) (host : List HostOp) (draws : Nat) :
    (s.readBy v host draws).params = s.params := rfl

@[simp] theorem State.resetBlock_params (s : State) : s.resetBlock.params = s.params := rfl

@[simp] theorem State.atMotion_params (s : State) : s.atMotion.params = s.params := rfl

@[simp] theorem State.finishBlit_params (s : State) : s.finishBlit.params = s.params := by
  rcases s.finishBlit_cases with ⟨-, he⟩ | ⟨-, he⟩ <;> simp [he]

theorem exec_accepted_params {i : Instr} {s t : State} (hb : s.status.busy = false) (h : exec i s = .next t) :
    t.params = s.params := by
  rcases exec_accepted hb h with rfl | ⟨-, v, rfl⟩ | ⟨-, -, rfl⟩
  · simp
  · simp
  · simp

theorem commandWrite_params {w : Word} {s t : State} (h : commandWrite w s = .next t) : t.params = s.params := by
  rcases commandWrite_cases h with ⟨-, rfl⟩ | ⟨hb, i, -, hexec⟩ | ⟨-, -, rfl⟩
  · simp
  · exact exec_accepted_params hb hexec
  · rfl

theorem engineStep_params {s t : State} (h : engineStep s = .next t) : t.params = s.params := by
  rcases engineStep_cases h with ⟨a, -, -, rfl⟩ | ⟨a, v, -, -, rfl⟩ | ⟨-, rfl⟩
  · simp
  · simp
  · simp

theorem hostStep_params {op : HostOp} {s t : State} (h : hostStep op s = .next t) : t.params = s.params := by
  rcases hostStep_cases h with rfl | ⟨r, v, -, rfl⟩ | ⟨w, hcmd⟩ | ⟨a, size, d, -, -, rfl⟩ | ⟨v, hs, n, rfl⟩ | ⟨-, rfl⟩
  · rfl
  · simp
  · exact commandWrite_params hcmd
  · simp
  · simp
  · simp

/-- No step of the machine changes the parameters of the build (R6, R10, R67). -/
theorem step_params {s t : State} (h : step s = .next t) : t.params = s.params := by
  rcases step_cases h with ⟨-, -, rfl⟩ | ⟨-, ts, heng⟩ | ⟨op, rest, ts, -, hhost⟩
  · rfl
  · exact (engineStep_params heng).trans rfl
  · exact (hostStep_params hhost).trans rfl

/-! CONFIG. -/

/-- CONFIG.APOS as R23 writes it. -/
theorem alphaOffset_div_eight (A : AlphaPos) : A.alphaOffset / 8 = A.apos :=
  Nat.mul_div_cancel_left _ (by decide)

theorem State.regValue_config (s : State) :
    s.regValue .config = 0x00001000#32 ||| BitVec.ofNat 32 s.params.alpha.apos := rfl

/-- CONFIG is a function of the parameters alone. -/
theorem State.regValue_config_congr {s t : State} (h : t.params = s.params) :
    t.regValue .config = s.regValue .config := by
  rw [State.regValue_config, State.regValue_config, h]

/-- The fields of CONFIG (R23): APOS in bits 1:0, bits 7:2 zero, 16 in bits 15:8, bits 31:16 zero. -/
theorem State.regValue_config_fields (s : State) :
    (s.regValue .config).toNat % 4 = s.params.alpha.apos ∧ (s.regValue .config).toNat / 4 % 64 = 0 ∧
      (s.regValue .config).toNat / 256 % 256 = 16 ∧ (s.regValue .config).toNat / 65536 = 0 := by
  rw [State.regValue_config]
  cases s.params.alpha <;> decide

/-- Settles O21: CONFIG's fields by the four layouts, its constancy by `step_params`. -/
theorem configIsConstant : Obligations.ConfigIsConstant := by
  unfold Obligations.ConfigIsConstant
  refine ⟨fun s => ?_, fun s t h => ⟨State.regValue_config_congr (step_params h), step_params h⟩⟩
  rw [alphaOffset_div_eight]
  exact ⟨s.regValue_config, s.regValue_config_fields⟩

end Sys2Proof.Machine

/-! ## Command words, and the CMD write of a reserved word

The decoder reads a word exactly where a row of the opcode map holds it (R92), and the rows hold the words 0 to 5. So a
word is reserved when it is 6 or more, which is R95's reading of its OP and MBZ; its CMD write answers
`State.rejectReserved`, whose two cases are R95 (idle) and R254 (busy). -/

namespace Sys2Proof

/-! The decoder of words. -/

/-- The rows of the opcode map are what the decoder reads: no two rows share a word (R91, R92). -/
theorem decodeWord_eq_ok_iff {w : Word} {i : Instr} : decodeWord w = .ok i ↔ (w, i) ∈ opcodeMap := by
  constructor
  · intro h
    unfold decodeWord at h
    split at h
    · next row hfind =>
      have hword : row.1 = w := by simpa using List.find?_some hfind
      have hinstr : row.2 = i := by simpa using h
      rw [← hword, ← hinstr]
      exact List.mem_of_find?_eq_some hfind
    · split at h <;> cases h
  · intro hrow
    have hrows : ∀ row ∈ opcodeMap, (decodeWord row.1).toOption = some row.2 := by decide
    have hopt := hrows _ hrow
    cases hdec : decodeWord w with
    | ok j => simpa [hdec, Except.toOption] using hopt
    | error e => simp [hdec, Except.toOption] at hopt

theorem exists_row_iff_toNat_lt_six {w : Word} : (∃ i, (w, i) ∈ opcodeMap) ↔ w.toNat < 6 := by
  constructor
  · rintro ⟨i, hrow⟩
    have hrows : ∀ row ∈ opcodeMap, row.1.toNat < 6 := by decide
    exact hrows _ hrow
  · intro hlt
    have hwords : ∀ n < 6, BitVec.ofNat 32 n ∈ opcodeMap.map Prod.fst := by decide
    have hmem := hwords _ hlt
    rw [BitVec.ofNat_toNat, BitVec.setWidth_eq] at hmem
    obtain ⟨⟨_, i⟩, hrow, rfl⟩ := List.mem_map.mp hmem
    exact ⟨i, hrow⟩

theorem exists_decodeWord_iff_toNat_lt_six {w : Word} : (∃ i, decodeWord w = .ok i) ↔ w.toNat < 6 := by
  simp only [decodeWord_eq_ok_iff, exists_row_iff_toNat_lt_six]

/-- R95: no command decodes from a word exactly when its OP is in 6..15 or its MBZ is not 0. -/
theorem reserved_iff_no_decodeWord (w : Word) :
    (6 ≤ w.toNat % 16 ∨ w.toNat / 16 ≠ 0) ↔ ∀ i, decodeWord w ≠ .ok i := by
  have hfields : (6 ≤ w.toNat % 16 ∨ w.toNat / 16 ≠ 0) ↔ ¬ w.toNat < 6 := by omega
  rw [hfields, ← exists_decodeWord_iff_toNat_lt_six, not_exists]

namespace Machine

/-! A 32-bit host write of a register. -/

theorem hostStep_write_regAddr (s : State) (r : Reg) (d : BusData) :
    hostStep (.write (s.params.regAddr r) .word d) s = writeOffset r.offset (d.setWidth 32) s := by
  have hdef := definedWindowAccess_regAddr s.params r
  simp [hostStep, hostWrite, touchesWindow_of_defined hdef, hdef, windowOffset_regAddr]

theorem writeOffset_cmd (w : Word) (s : State) : writeOffset Reg.cmd.offset w s = commandWrite w s := by
  simp only [writeOffset, atOffset_offset]

theorem hostStep_write_cmd (s : State) (w : Word) :
    hostStep (.write (s.params.regAddr .cmd) .word (w.setWidth 64)) s = commandWrite w s := by
  have hdata : (w.setWidth 64).setWidth 32 = w := by simp
  rw [hostStep_write_regAddr, hdata, writeOffset_cmd]

/-! A reserved word. -/

theorem commandWrite_of_reserved {w : Word} (h : ∀ i, decodeWord w ≠ .ok i) (s : State) :
    commandWrite w s = .next s.rejectReserved := by
  unfold commandWrite
  split
  · next i hi => exact absurd hi (h i)
  · rfl

theorem State.rejectReserved_of_idle {s : State} (h : s.status.busy = false) :
    s.rejectReserved = { s with status := s.status.onReserved } := by
  simp [State.rejectReserved, h]

theorem State.rejectReserved_of_busy {s : State} (h : s.status.busy = true) : s.rejectReserved = s.rejectBusy := by
  simp [State.rejectReserved, h]

/-- Settles O3: reserved words by `reserved_iff_no_decodeWord`, the write by the two cases of `State.rejectReserved`. -/
theorem reservedWordSetsErrOpcodeOnly : Obligations.ReservedWordSetsErrOpcodeOnly := by
  unfold Obligations.ReservedWordSetsErrOpcodeOnly
  refine fun w => ⟨reserved_iff_no_decodeWord w, fun hres s => ?_⟩
  rw [hostStep_write_cmd, commandWrite_of_reserved ((reserved_iff_no_decodeWord w).mp hres)]
  constructor
  · intro hidle
    rw [State.rejectReserved_of_idle hidle, Status.onReserved]
  · intro hbusy
    rw [State.rejectReserved_of_busy hbusy, State.rejectBusy, Status.onBusyWrite]

end Machine

end Sys2Proof

/-! ## The reciprocal table, and RECIP_READ

The ROM lists `R(α)` of R120 in the order of α, so a lookup is the closed formula; its values fit the entry's 24 bits
(R122), so neither the entry nor its zero extension to PIX_OUT loses a bit. -/

namespace Sys2Proof.Machine

/-! The table. -/

/-- R120's formula at the 32 values of α from `32 * k` on. -/
def reciprocalPage (k : Nat) : List Nat := (List.range' (32 * k) 32).map ceilReciprocal

/-- The evaluation of the 256 listed entries: R123's listing against R120's formula, page by page. -/
theorem recipRom_pages :
    recipRom0 = reciprocalPage 0 ∧ recipRom1 = reciprocalPage 1 ∧ recipRom2 = reciprocalPage 2 ∧
      recipRom3 = reciprocalPage 3 ∧ recipRom4 = reciprocalPage 4 ∧ recipRom5 = reciprocalPage 5 ∧
      recipRom6 = reciprocalPage 6 ∧ recipRom7 = reciprocalPage 7 := by
  and_intros <;> decide

/-- The pages below `k` and page `k` are the pages below `k + 1`. -/
theorem map_range_append_reciprocalPage (k : Nat) :
    (List.range (32 * k)).map ceilReciprocal ++ reciprocalPage k = (List.range (32 * (k + 1))).map ceilReciprocal := by
  rw [reciprocalPage, ← List.map_append, List.range_eq_range', List.range_eq_range', Nat.mul_succ,
    ← List.range'_append_1, Nat.zero_add]

theorem recipRom_eq_map_ceilReciprocal : recipRom = (List.range 256).map ceilReciprocal := by
  obtain ⟨h0, h1, h2, h3, h4, h5, h6, h7⟩ := recipRom_pages
  rw [recipRom, h0, h1, h2, h3, h4, h5, h6, h7]
  have hfirst : reciprocalPage 0 = (List.range (32 * 1)).map ceilReciprocal := map_range_append_reciprocalPage 0
  simp only [hfirst, map_range_append_reciprocalPage]

/-- `R(1) = 0xFF0000` is the largest entry (R122). -/
theorem ceilReciprocal_le (a : Nat) : ceilReciprocal a ≤ 0xFF0000 := by
  unfold ceilReciprocal
  split
  · exact Nat.zero_le _
  · exact Nat.le_of_lt_succ (Nat.div_lt_of_lt_mul (by omega))

theorem recipRom_getD {a : Nat} (h : a < 256) : recipRom.getD a 0 = ceilReciprocal a := by
  simp [recipRom_eq_map_ceilReciprocal, h]

theorem recip_toNat (a : Byte) : (recip a).toNat = ceilReciprocal a.toNat := by
  have hfits : ceilReciprocal a.toNat < 2 ^ 24 := (ceilReciprocal_le _).trans_lt (by decide)
  rw [recip, recipRom_getD a.isLt, BitVec.toNat_ofNat, Nat.mod_eq_of_lt hfits]

/-- Settles O27: the listing against the formula, and the formula's bound. -/
theorem tableIsCeilingReciprocal : Obligations.TableIsCeilingReciprocal :=
  recip_toNat

/-! Command requests. -/

/-- Every command is a request with its own effect (R252, R254). -/
theorem exec_eq_request (i : Instr) (s : State) : ∃ effect, exec i s = s.request i effect := by
  cases i <;> simp only [exec, execNop, execBlitUnpremul, execBlitPremul, execPixUnpremul, execPixPremul,
    execRecipRead] <;> exact ⟨_, rfl⟩

/-- Every command is turned away while busy (R254). -/
theorem exec_of_busy {s : State} (i : Instr) (h : s.status.busy = true) :
    exec i s = .next { s with status := { s.status with errBusy := true } } := by
  obtain ⟨effect, hexec⟩ := exec_eq_request i s
  rw [hexec, State.request_of_busy i effect h, State.rejectBusy, Status.onBusyWrite]

/-- An accepted command that writes PIX_OUT and completes (R252, R253): DONE is set and `L` is latched. -/
theorem State.complete_setPixOut_accept (s : State) (i : Instr) (v : Word) :
    ((s.accept i).setPixOut v).complete = { s with
      pixOut := v
      status := { s.status with done := true }
      engine := { s.engine with latch := s.latchFor i } } := rfl

/-! RECIP_READ. -/

/-- `zext_32(RECIP[a])` for `a = p[7:0]` (R125), by the formula of R120. -/
theorem recip_setWidth (p : Word) :
    (recip (p.setWidth 8)).setWidth 32 = BitVec.ofNat 32 (ceilReciprocal (p.toNat % 256)) := by
  have hlow : (p.setWidth 8).toNat = p.toNat % 256 := BitVec.toNat_setWidth 8 p
  rw [← BitVec.ofNat_toNat, recip_toNat, hlow]

theorem execRecipRead_of_free {s : State} (h : s.status.busy = false) :
    execRecipRead s =
      .next (((s.accept .recipRead).setPixOut ((recip (s.pixIn.setWidth 8)).setWidth 32)).complete) :=
  State.request_of_free _ _ h

/-- Settles O6: acceptance and completion in one step by `execRecipRead_of_free`, the entry by `recip_setWidth`. -/
theorem recipReadWritesCeilingReciprocal : Obligations.RecipReadWritesCeilingReciprocal := by
  unfold Obligations.RecipReadWritesCeilingReciprocal
  refine ⟨decodeWord_eq_ok_iff.mpr (by decide), fun s => ⟨fun hfree => ?_, exec_of_busy .recipRead⟩⟩
  calc exec .recipRead s
      = .next (((s.accept .recipRead).setPixOut ((recip (s.pixIn.setWidth 8)).setWidth 32)).complete) :=
        execRecipRead_of_free hfree
    _ = _ := by rw [State.complete_setPixOut_accept, recip_setWidth]

end Sys2Proof.Machine

/-! ## The four channels of a pixel

Each layout places the four channels in the four bytes of the word, red, green and blue three, two and one byte above
alpha, modulo four (R7). So `ch` reads a byte, and `pack` joins four words that hold one byte each. -/

namespace Sys2Proof

/-! Bytes of a word. -/

theorem ch_eq_byteOfWord (p : Word) (k : Nat) : ch p (8 * k) = byteOfWord p k :=
  BitVec.setWidth_ushiftRight_eq_extractLsb

theorem byteOfWord_or (v w : Word) (k : Nat) : byteOfWord (v ||| w) k = byteOfWord v k ||| byteOfWord w k :=
  BitVec.extractLsb'_or

/-- A byte shifted to byte `j` is there, and the other bytes are 0. -/
theorem byteOfWord_shiftLeft (b : Byte) (j : Nat) {k : Nat} (hk : k < 4) :
    byteOfWord (b.setWidth 32 <<< (8 * j)) k = if j = k then b else 0#8 := by
  ext i hi
  simp only [byteOfWord, BitVec.getElem_extractLsb', BitVec.getLsbD_shiftLeft, BitVec.getLsbD_setWidth]
  split
  case isTrue hjk =>
    subst hjk
    have hin : 8 * j + i < 32 := by omega
    have hin' : i < 32 := by omega
    simp [hin, hin', BitVec.getLsbD_eq_getElem hi]
  case isFalse hjk =>
    rcases Nat.lt_or_gt_of_ne hjk with hlt | hgt
    · have hhigh : 8 ≤ 8 * k + i - 8 * j := by omega
      simp [BitVec.getLsbD_of_ge b _ hhigh]
    · have hlow : 8 * k + i < 8 * j := by omega
      simp [hlow]

/-! The bytes that hold the channels (R7's table). -/

theorem AlphaPos.alpha_eq_byteOfWord (A : AlphaPos) (p : Word) : A.alpha p = byteOfWord p A.apos :=
  ch_eq_byteOfWord p A.apos

theorem AlphaPos.red_eq_byteOfWord (A : AlphaPos) (p : Word) : A.red p = byteOfWord p ((A.apos + 3) % 4) := by
  rw [← ch_eq_byteOfWord]
  cases A <;> rfl

theorem AlphaPos.green_eq_byteOfWord (A : AlphaPos) (p : Word) : A.green p = byteOfWord p ((A.apos + 2) % 4) := by
  rw [← ch_eq_byteOfWord]
  cases A <;> rfl

theorem AlphaPos.blue_eq_byteOfWord (A : AlphaPos) (p : Word) : A.blue p = byteOfWord p ((A.apos + 1) % 4) := by
  rw [← ch_eq_byteOfWord]
  cases A <;> rfl

theorem AlphaPos.pack_eq_or (A : AlphaPos) (a r g b : Byte) :
    A.pack a r g b = (a.setWidth 32 <<< (8 * A.apos)) ||| (r.setWidth 32 <<< (8 * ((A.apos + 3) % 4))) |||
      (g.setWidth 32 <<< (8 * ((A.apos + 2) % 4))) ||| (b.setWidth 32 <<< (8 * ((A.apos + 1) % 4))) := by
  cases A <;> rfl

theorem AlphaPos.byteOfWord_pack (A : AlphaPos) (a r g b : Byte) {k : Nat} (hk : k < 4) :
    byteOfWord (A.pack a r g b) k =
      (if A.apos = k then a else 0#8) ||| (if (A.apos + 3) % 4 = k then r else 0#8) |||
        (if (A.apos + 2) % 4 = k then g else 0#8) ||| (if (A.apos + 1) % 4 = k then b else 0#8) := by
  simp only [pack_eq_or, byteOfWord_or, byteOfWord_shiftLeft _ _ hk]

theorem AlphaPos.apos_lt_four (A : AlphaPos) : A.apos < 4 := by
  cases A <;> decide

/-! The channels of a packed pixel, and a pixel packed from its channels (R14). -/

@[simp] theorem AlphaPos.alpha_pack (A : AlphaPos) (a r g b : Byte) : A.alpha (A.pack a r g b) = a := by
  rw [alpha_eq_byteOfWord, byteOfWord_pack A a r g b A.apos_lt_four]
  cases A <;> simp [apos]

@[simp] theorem AlphaPos.red_pack (A : AlphaPos) (a r g b : Byte) : A.red (A.pack a r g b) = r := by
  rw [red_eq_byteOfWord, byteOfWord_pack A a r g b (Nat.mod_lt _ (by decide))]
  cases A <;> simp [apos]

@[simp] theorem AlphaPos.green_pack (A : AlphaPos) (a r g b : Byte) : A.green (A.pack a r g b) = g := by
  rw [green_eq_byteOfWord, byteOfWord_pack A a r g b (Nat.mod_lt _ (by decide))]
  cases A <;> simp [apos]

@[simp] theorem AlphaPos.blue_pack (A : AlphaPos) (a r g b : Byte) : A.blue (A.pack a r g b) = b := by
  rw [blue_eq_byteOfWord, byteOfWord_pack A a r g b (Nat.mod_lt _ (by decide))]
  cases A <;> simp [apos]

/-- Packing a pixel's channels gives the pixel back (R14). -/
@[simp] theorem AlphaPos.pack_channels (A : AlphaPos) (p : Word) :
    A.pack (A.alpha p) (A.red p) (A.green p) (A.blue p) = p := by
  refine word_ext_bytes fun k hk => ?_
  rw [byteOfWord_pack A _ _ _ _ hk, alpha_eq_byteOfWord, red_eq_byteOfWord, green_eq_byteOfWord, blue_eq_byteOfWord]
  cases A <;> interval_cases k <;> simp [apos]

theorem AlphaPos.pack_zero (A : AlphaPos) : A.pack 0#8 0#8 0#8 0#8 = 0#32 := by
  simp [pack]

end Sys2Proof

/-! ## Unpremultiplication, and PIX_UNPREMUL

`R(α)` exceeds `255 · 2^16 / α` by less than 1, so for 8-bit values the lookup's product and shift give the exact floor
quotient `(255 · c) div α` (R124). The channel function is then that quotient, saturated (R146), and the corner cases of
R147 are its values at alpha 0, at alpha 255 and above alpha, channel by channel. -/

namespace Sys2Proof.Machine

/-! The lookup-divide (R124). -/

/-- `R(α)` is the ceiling of `255 · 2^16 / α` (R120, R122). -/
theorem ceilReciprocal_mul_bounds {a : Nat} (ha : 0 < a) :
    255 * 2 ^ 16 ≤ ceilReciprocal a * a ∧ ceilReciprocal a * a < 255 * 2 ^ 16 + a := by
  have hdiv := Nat.div_add_mod' (16711680 + a - 1) a
  have hmod := Nat.mod_lt (16711680 + a - 1) ha
  rw [ceilReciprocal, if_neg ha.ne']
  omega

/-- The floor survives the rounding up of `R(α)`: the excess of `R(α) · α` over `255 · 2^16` is below `α`, so for 8-bit
values `c` times it is below the `2^16` that is shifted out. -/
theorem mul_ceilReciprocal_div {c a : Nat} (hc : c < 256) (ha : 0 < a) (ha' : a < 256) :
    c * ceilReciprocal a / 2 ^ 16 = 255 * c / a := by
  obtain ⟨hlow, hhigh⟩ := ceilReciprocal_mul_bounds ha
  obtain ⟨e, he⟩ := Nat.exists_eq_add_of_le hlow
  have hexcess : c * e < 256 * 256 := Nat.mul_lt_mul'' hc (by omega)
  have hrem := Nat.mod_lt (255 * c) ha
  have hproduct : c * ceilReciprocal a * a = 2 ^ 16 * (255 * c / a * a) + 2 ^ 16 * (255 * c % a) + c * e := by
    rw [← mul_add, Nat.div_add_mod', mul_assoc, he]
    ring
  refine Nat.div_eq_of_lt_le (Nat.le_of_mul_le_mul_right ?_ ha) (Nat.lt_of_mul_lt_mul_right (a := a) ?_)
  · linarith [Nat.zero_le (255 * c % a), Nat.zero_le (c * e)]
  · linarith

theorem lookupDivide_eq_mul_div (c : Nat) (a : Byte) : lookupDivide c a = c * ceilReciprocal a.toNat / 2 ^ 16 := by
  rw [lookupDivide, recip_toNat, Nat.shiftRight_eq_div_pow]

theorem lookupDivide_zero (c : Nat) : lookupDivide c 0#8 = 0 := by
  simp [lookupDivide_eq_mul_div, ceilReciprocal]

/-- R124 for `α ≠ 0`. -/
theorem lookupDivide_eq_div {c : Nat} {a : Byte} (ha : a ≠ 0#8) (hc : c < 256) :
    lookupDivide c a = 255 * c / a.toNat := by
  have hpos : 0 < a.toNat := by bv_omega
  rw [lookupDivide_eq_mul_div, mul_ceilReciprocal_div hc hpos a.isLt]

/-! The channel function (R142, R146). -/

theorem clamp8_toNat (v : Nat) : (clamp8 v).toNat = min v 255 := by
  rw [clamp8, BitVec.toNat_ofNat, Nat.mod_eq_of_lt (by omega)]

theorem clampInput_lt (c a : Byte) (clamp : Bool) : clampInput c a clamp < 256 := by
  have hc := c.isLt
  unfold clampInput
  split <;> omega

theorem clampInput_of_le {c a : Byte} (clamp : Bool) (h : c ≤ a) : clampInput c a clamp = c.toNat := by
  have hle : c.toNat ≤ a.toNat := h
  simp [clampInput, hle]

theorem le_clampInput_of_lt {c a : Byte} (clamp : Bool) (h : a < c) : a.toNat ≤ clampInput c a clamp := by
  have hlt : a.toNat < c.toNat := h
  unfold clampInput
  split <;> omega

/-- Alpha 0 gives 0 (R146). -/
theorem unpremulChannel_transparent (c : Byte) (clamp : Bool) : unpremulChannel c 0#8 clamp = 0#8 := by
  rw [unpremulChannel, lookupDivide_zero]
  rfl

/-- The saturated floor quotient (R146). -/
theorem unpremulChannel_toNat (c : Byte) {a : Byte} (clamp : Bool) (ha : a ≠ 0#8) :
    (unpremulChannel c a clamp).toNat = min 255 (255 * clampInput c a clamp / a.toNat) := by
  rw [unpremulChannel, clamp8_toNat, lookupDivide_eq_div ha (clampInput_lt c a clamp), Nat.min_comm]

/-- Alpha 255 gives the colour itself (R146). -/
theorem unpremulChannel_opaque (c : Byte) (clamp : Bool) : unpremulChannel c 255#8 clamp = c := by
  have hc := c.isLt
  have hle : c ≤ 255#8 := by bv_omega
  apply BitVec.eq_of_toNat_eq
  calc (unpremulChannel c 255#8 clamp).toNat
      = min 255 (255 * c.toNat / 255) := by
        rw [unpremulChannel_toNat c clamp (by decide), clampInput_of_le clamp hle]
        rfl
    _ = c.toNat := by omega

/-- A colour above a nonzero alpha gives 255, clamped on input or not (R146, R148). -/
theorem unpremulChannel_superluminant {c a : Byte} (clamp : Bool) (ha : a ≠ 0#8) (h : a < c) :
    unpremulChannel c a clamp = 255#8 := by
  have hpos : 0 < a.toNat := by bv_omega
  have hquot : 255 ≤ 255 * clampInput c a clamp / a.toNat :=
    (Nat.le_div_iff_mul_le hpos).mpr (Nat.mul_le_mul_left 255 (le_clampInput_of_lt clamp h))
  apply BitVec.eq_of_toNat_eq
  rw [unpremulChannel_toNat c clamp ha, Nat.min_eq_left hquot]
  rfl

/-! The pixel function (R144). -/

@[simp] theorem alpha_unpremulPixel (A : AlphaPos) (p : Word) (clamp : Bool) :
    A.alpha (unpremulPixel A p clamp) = A.alpha p :=
  A.alpha_pack ..

@[simp] theorem red_unpremulPixel (A : AlphaPos) (p : Word) (clamp : Bool) :
    A.red (unpremulPixel A p clamp) = unpremulChannel (A.red p) (A.alpha p) clamp :=
  A.red_pack ..

@[simp] theorem green_unpremulPixel (A : AlphaPos) (p : Word) (clamp : Bool) :
    A.green (unpremulPixel A p clamp) = unpremulChannel (A.green p) (A.alpha p) clamp :=
  A.green_pack ..

@[simp] theorem blue_unpremulPixel (A : AlphaPos) (p : Word) (clamp : Bool) :
    A.blue (unpremulPixel A p clamp) = unpremulChannel (A.blue p) (A.alpha p) clamp :=
  A.blue_pack ..

theorem unpremulPixel_transparent {A : AlphaPos} {p : Word} (clamp : Bool) (h : A.alpha p = 0#8) :
    unpremulPixel A p clamp = 0#32 := by
  simp only [unpremulPixel, h, unpremulChannel_transparent, AlphaPos.pack_zero]

theorem unpremulPixel_opaque {A : AlphaPos} {p : Word} (clamp : Bool) (h : A.alpha p = 255#8) :
    unpremulPixel A p clamp = p := by
  calc unpremulPixel A p clamp
      = A.pack (A.alpha p) (A.red p) (A.green p) (A.blue p) := by simp only [unpremulPixel, h, unpremulChannel_opaque]
    _ = p := A.pack_channels p

/-! PIX_UNPREMUL. -/

theorem execPixUnpremul_of_free {s : State} (h : s.status.busy = false) :
    execPixUnpremul s =
      .next (((s.accept .pixUnpremul).setPixOut (unpremulPixel s.params.alpha s.pixIn s.ctrl.clampEn)).complete) :=
  State.request_of_free _ _ h

/-- Settles O7: acceptance and completion in one step by `execPixUnpremul_of_free`, the corner cases in every layout by
the channel function's laws at the pixel's channels, R147's example by evaluation. -/
theorem pixUnpremulWritesPixOut : Obligations.PixUnpremulWritesPixOut := by
  unfold Obligations.PixUnpremulWritesPixOut
  refine ⟨decodeWord_eq_ok_iff.mpr (by decide), fun s => ⟨fun hfree => ?_, exec_of_busy .pixUnpremul⟩,
    fun A p clamp => ⟨unpremulPixel_transparent clamp, unpremulPixel_opaque clamp, fun ha hred => ?_,
      fun ha hgreen => ?_, fun ha hblue => ?_⟩, by decide⟩
  · calc exec .pixUnpremul s
        = .next (((s.accept .pixUnpremul).setPixOut
            (unpremulPixel s.params.alpha s.pixIn s.ctrl.clampEn)).complete) := execPixUnpremul_of_free hfree
      _ = _ := by rw [State.complete_setPixOut_accept]
  · rw [red_unpremulPixel, unpremulChannel_superluminant clamp ha hred]
  · rw [green_unpremulPixel, unpremulChannel_superluminant clamp ha hgreen]
  · rw [blue_unpremulPixel, unpremulChannel_superluminant clamp ha hblue]

end Sys2Proof.Machine

/-! ## Premultiplication, and PIX_PREMUL

For 8-bit values the rounded product stays below `256 · 2^16`, so the channel function never saturates (R174): it is the
shifted product itself, and the corner cases of R175 are its values at alpha 0 and alpha 255, channel by channel. -/

namespace Sys2Proof.Machine

/-! The channel function (R171, R174). -/

theorem premulProduct_div_le (c a : Byte) : (c.toNat * a.toNat * 257 + 32768) / 2 ^ 16 ≤ 255 := by
  have hc : c.toNat ≤ 255 := Nat.le_of_lt_succ c.isLt
  have ha : a.toNat ≤ 255 := Nat.le_of_lt_succ a.isLt
  have hproduct : c.toNat * a.toNat ≤ 255 * 255 := Nat.mul_le_mul hc ha
  omega

/-- The rounding formula, with no saturation (R174). -/
theorem premulChannel_toNat (c a : Byte) :
    (premulChannel c a).toNat = (c.toNat * a.toNat * 257 + 32768) / 2 ^ 16 := by
  rw [premulChannel, clamp8_toNat, Nat.shiftRight_eq_div_pow, Nat.min_eq_left (premulProduct_div_le c a)]

/-- Alpha 0 gives 0: the rounding term alone is below `2^16` (R174). -/
theorem premulChannel_transparent (c : Byte) : premulChannel c 0#8 = 0#8 := by
  apply BitVec.eq_of_toNat_eq
  calc (premulChannel c 0#8).toNat
      = (c.toNat * 0 * 257 + 32768) / 2 ^ 16 := premulChannel_toNat c 0#8
    _ = 0 := by omega

/-- Alpha 255 gives the colour itself: `255 · 257` is one less than `2^16`, and the rounding term makes up for it (R174). -/
theorem premulChannel_opaque (c : Byte) : premulChannel c 255#8 = c := by
  have hc := c.isLt
  apply BitVec.eq_of_toNat_eq
  calc (premulChannel c 255#8).toNat
      = (c.toNat * 255 * 257 + 32768) / 2 ^ 16 := premulChannel_toNat c 255#8
    _ = c.toNat := by omega

/-- The evaluation of the 24 listed pairs (R174). -/
theorem premulChannel_of_mem_premulShortfalls :
    ∀ x ∈ premulShortfalls, (premulChannel (BitVec.ofNat 8 x.1.1) (BitVec.ofNat 8 x.1.2)).toNat = x.2 := by
  decide

/-! The pixel function (R172). -/

theorem premulPixel_transparent {A : AlphaPos} {p : Word} (h : A.alpha p = 0#8) : premulPixel A p = 0#32 := by
  simp only [premulPixel, h, premulChannel_transparent, AlphaPos.pack_zero]

theorem premulPixel_opaque {A : AlphaPos} {p : Word} (h : A.alpha p = 255#8) : premulPixel A p = p := by
  calc premulPixel A p
      = A.pack (A.alpha p) (A.red p) (A.green p) (A.blue p) := by simp only [premulPixel, h, premulChannel_opaque]
    _ = p := A.pack_channels p

/-! PIX_PREMUL. -/

theorem execPixPremul_of_free {s : State} (h : s.status.busy = false) :
    execPixPremul s =
      .next (((s.accept .pixPremul).setPixOut (premulPixel s.params.alpha s.pixIn)).complete) :=
  State.request_of_free _ _ h

/-- Settles O8: acceptance and completion in one step by `execPixPremul_of_free`, the corner cases in every layout by the
channel function's values at alpha 0 and 255, the listed pairs and R175's two examples by evaluation. -/
theorem pixPremulWritesPixOut : Obligations.PixPremulWritesPixOut := by
  unfold Obligations.PixPremulWritesPixOut
  refine ⟨decodeWord_eq_ok_iff.mpr (by decide), fun s => ⟨fun hfree => ?_, exec_of_busy .pixPremul⟩,
    fun A p => ⟨premulPixel_transparent, premulPixel_opaque⟩, premulChannel_of_mem_premulShortfalls,
    by decide, by decide⟩
  calc exec .pixPremul s
      = .next (((s.accept .pixPremul).setPixOut (premulPixel s.params.alpha s.pixIn)).complete) :=
        execPixPremul_of_free hfree
    _ = _ := by rw [State.complete_setPixOut_accept]

end Sys2Proof.Machine

/-! ## The pixels of a run

A run loop stands at `gotT` with its next pixel read, and at `putT` with that pixel written. Whether the pixel continues
a solid run is a test on the alpha byte alone, for AMASK selects that byte (R7, R193). From `gotT` the engine writes or
returns to the head of the outer loop, and within the row that head reads the same pixel again (R197). -/

namespace Sys2Proof

/-! AMASK: the alpha byte all ones, the other bytes 0 (R7). -/

theorem byteOfWord_and (v w : Word) (k : Nat) : byteOfWord (v &&& w) k = byteOfWord v k &&& byteOfWord w k :=
  BitVec.extractLsb'_and

theorem AlphaPos.byteOfWord_amask (A : AlphaPos) {k : Nat} (hk : k < 4) :
    byteOfWord A.amask k = if A.apos = k then BitVec.allOnes 8 else 0#8 :=
  byteOfWord_shiftLeft (BitVec.allOnes 8) A.apos hk

end Sys2Proof

namespace Sys2Proof.Machine

/-! The pixels that continue a run. -/

/-- The mask test of a solid run is the test that alpha is 255 (R193). -/
theorem opaquePixel_iff {A : AlphaPos} {t : Word} : opaquePixel A t = true ↔ A.alpha t = 255#8 := by
  rw [opaquePixel, beq_iff_eq, AlphaPos.alpha_eq_byteOfWord]
  constructor
  · intro hmask
    have hbyte : byteOfWord (t &&& A.amask) A.apos = byteOfWord A.amask A.apos := by rw [hmask]
    rw [byteOfWord_and, A.byteOfWord_amask A.apos_lt_four, if_pos rfl, BitVec.and_allOnes] at hbyte
    exact hbyte
  · intro halpha
    refine word_ext_bytes fun k hk => ?_
    rw [byteOfWord_and, A.byteOfWord_amask hk]
    split
    case isTrue hpos => rw [BitVec.and_allOnes, ← hpos, halpha]; rfl
    case isFalse => exact BitVec.and_zero

theorem continuesRun_solidRun {A : AlphaPos} {p0 t : Word} :
    continuesRun A .solidRun p0 t = true ↔ A.alpha t = 255#8 :=
  opaquePixel_iff

theorem continuesRun_constantRun {A : AlphaPos} {p0 t : Word} :
    continuesRun A .constantRun p0 t = true ↔ t = p0 :=
  beq_iff_eq

theorem Engine.runValue_solidRun {e : Engine} (h : e.rd = .solidRun) : e.runValue = e.t := by
  rw [runValue, if_pos h]

theorem Engine.runValue_constantRun {e : Engine} (h : e.rd = .constantRun) : e.runValue = e.q0 := by
  rw [runValue, h, if_neg (by decide)]

/-! The head of the outer loop, within a row and at its end. -/

/-- With a pixel of the row left, the head of the outer loop reads it: the first of a pair, or the tail (R195, R199). -/
theorem Engine.probe_withinRow {e : Engine} (h : e.i < e.latch.width.toNat) :
    e.probe = ({ e with rd := .probe, point := if e.i + 2 ≤ e.latch.width.toNat then .gotP0 else .gotTail },
      .read (e.latch.srcAt e.r e.i)) := by
  split
  case isTrue hpair => exact probe_pair hpair
  case isFalse htail => exact probe_tail (by omega)

/-- Whatever the head of the outer loop leads to, no run is on. -/
theorem Engine.probe_rd (e : Engine) : e.probe.1.rd = .probe := by
  unfold probe
  split_ifs <;> rfl

/-! The engine's motions in a run. -/

theorem Engine.next_gotT_of_continuesRun {A : AlphaPos} {e : Engine} (h : e.point = .gotT)
    (hc : continuesRun A e.rd e.p0 e.t = true) :
    e.next A = ({ e with point := .putT }, .write (e.latch.dstAt e.r e.i) e.runValue) := by
  rw [next_gotT A h, if_pos hc]

/-- A pixel that breaks its run is the next probe's first read (R197). -/
theorem Engine.next_gotT_of_not_continuesRun {A : AlphaPos} {e : Engine} (h : e.point = .gotT)
    (hc : ¬ continuesRun A e.rd e.p0 e.t = true) (hi : e.i < e.latch.width.toNat) :
    e.next A = ({ e with rd := .probe, point := if e.i + 2 ≤ e.latch.width.toNat then .gotP0 else .gotTail },
      .read (e.latch.srcAt e.r e.i)) := by
  rw [next_gotT A h, if_neg hc, probe_withinRow hi]

theorem Engine.runLoop_withinRow {e : Engine} (h : e.i < e.latch.width.toNat) :
    e.runLoop = ({ e with point := .gotT }, .read (e.latch.srcAt e.r e.i)) := by
  obtain ⟨-, hread⟩ | ⟨hend, -⟩ := e.runLoop_cases
  · exact hread
  · omega

theorem Engine.runLoop_rowEnd {e : Engine} (h : e.latch.width.toNat ≤ e.i) : e.runLoop = e.probe := by
  obtain ⟨hleft, -⟩ | ⟨-, hprobe⟩ := e.runLoop_cases
  · omega
  · exact hprobe

/-- Settles O48: at `gotT` by whether the pixel continues its run, at `putT` by whether it was the last of the row. -/
theorem runsContinueOrBreak : Obligations.RunsContinueOrBreak := by
  unfold Obligations.RunsContinueOrBreak
  intro A e
  refine ⟨fun hT hi => ⟨fun hrd ht => ?solidGoesOn, fun hrd ht => ?constantGoesOn, fun hbreak => ?breaks⟩,
    fun hT hi => ?pixelLeft, fun hT hi => ?rowEnd⟩
  case solidGoesOn =>
    have hc : continuesRun A e.rd e.p0 e.t = true := by rw [hrd]; exact continuesRun_solidRun.mpr ht
    rw [Engine.next_gotT_of_continuesRun hT hc, Engine.runValue_solidRun hrd]
  case constantGoesOn =>
    have hc : continuesRun A e.rd e.p0 e.t = true := by rw [hrd]; exact continuesRun_constantRun.mpr ht
    rw [Engine.next_gotT_of_continuesRun hT hc, Engine.runValue_constantRun hrd]
  case breaks =>
    have hc : ¬ continuesRun A e.rd e.p0 e.t = true := by
      obtain ⟨hrd, ht⟩ | ⟨hrd, ht⟩ := hbreak <;> rw [hrd]
      · rwa [continuesRun_solidRun]
      · rwa [continuesRun_constantRun]
    exact Engine.next_gotT_of_not_continuesRun hT hc hi
  case pixelLeft => rw [Engine.next_putT A hT, Engine.runLoop_withinRow hi]
  case rowEnd => rw [Engine.next_putT A hT, Engine.runLoop_rowEnd hi.ge, Engine.probe_rd]

end Sys2Proof.Machine

/-! ## The accepting step of a BLIT

Both BLITs are the same request: accepted, they latch `L` and test its signed width and height (R230, R231). An empty
rectangle completes there (R225); any other starts RUN, and the accesses follow in later steps (R226). -/

namespace Sys2Proof.Machine

/-! The two starts. -/

/-- An accepted BLIT latches `L` and starts from it (R230, R231). -/
theorem exec_blit_of_free {i : Instr} {s : State} (hi : i = .blitUnpremul ∨ i = .blitPremul)
    (h : s.status.busy = false) : exec i s = .next (s.accept i).startBlit := by
  obtain rfl | rfl := hi
  · exact State.request_of_free .blitUnpremul State.startBlit h
  · exact State.request_of_free .blitPremul State.startBlit h

/-- The rectangle of the accepted command is read from the signed WIDTH and HEIGHT (R29, R33). -/
theorem State.latchFor_empty_iff (s : State) (i : Instr) :
    (s.latchFor i).Empty ↔ s.width.toInt ≤ 0 ∨ s.height.toInt ≤ 0 := Iff.rfl

theorem exec_blit_of_empty {i : Instr} {s : State} (hi : i = .blitUnpremul ∨ i = .blitPremul)
    (h : s.status.busy = false) (hempty : (s.latchFor i).Empty) : exec i s = .next (s.accept i).complete := by
  obtain ⟨-, hcomplete⟩ | ⟨hnonempty, -⟩ := (s.accept i).startBlit_cases
  · rw [exec_blit_of_free hi h, hcomplete]
  · exact absurd hempty hnonempty

theorem exec_blit_of_nonempty {i : Instr} {s : State} (hi : i = .blitUnpremul ∨ i = .blitPremul)
    (h : s.status.busy = false) (hnonempty : ¬ (s.latchFor i).Empty) :
    exec i s = .next (s.accept i).beginRun := by
  obtain ⟨hempty, -⟩ | ⟨-, hbegin⟩ := (s.accept i).startBlit_cases
  · exact absurd hempty hnonempty
  · rw [exec_blit_of_free hi h, hbegin]

/-! An empty rectangle. -/

/-- A command accepted and completed in one step (R252, R253): DONE is set and `L` is latched. -/
theorem State.complete_accept (s : State) (i : Instr) :
    (s.accept i).complete = { s with
      status := { s.status with done := true }
      engine := { s.engine with latch := s.latchFor i } } := rfl

/-- Settles O9: the latched rectangle is empty, so the step is acceptance and completion. -/
theorem emptyBlitCompletesAtOnce : Obligations.EmptyBlitCompletesAtOnce := by
  unfold Obligations.EmptyBlitCompletesAtOnce
  intro i s hi hfree hsize
  have hempty : (s.latchFor i).Empty := (s.latchFor_empty_iff i).mpr hsize
  rw [exec_blit_of_empty hi hfree hempty, State.complete_accept]

/-! A rectangle with pixels. -/

/-- Of the registers a host reads, acceptance changes STATUS only (R252). -/
theorem State.regValue_accept (s : State) (i : Instr) {r : Reg} (hr : r ≠ .status) :
    (s.accept i).regValue r = s.regValue r := by
  cases r with
  | status => exact absurd rfl hr
  | _ => rfl

/-- Of the registers a host reads, the start of RUN changes STATUS only (R226). -/
theorem State.regValue_beginRun (s : State) {r : Reg} (hr : r ≠ .status) :
    s.beginRun.regValue r = s.regValue r := by
  cases r with
  | status => exact absurd rfl hr
  | _ => rfl

/-- Settles O10: the latched rectangle is not empty, so the step is acceptance and the start of RUN. The registers are
kept by each of the two, every other field is read off by their equations. -/
theorem nonEmptyBlitStarts : Obligations.NonEmptyBlitStarts := by
  unfold Obligations.NonEmptyBlitStarts
  intro i s hi hfree hwidth hheight
  have hnonempty : ¬ (s.latchFor i).Empty := by rw [State.latchFor_empty_iff]; omega
  have hregs : ∀ r, r ≠ .status → (s.accept i).beginRun.regValue r = s.regValue r := fun r hr =>
    calc (s.accept i).beginRun.regValue r
        = (s.accept i).regValue r := State.regValue_beginRun _ hr
      _ = s.regValue r := s.regValue_accept i hr
  refine ⟨(s.accept i).beginRun, exec_blit_of_nonempty hi hfree hnonempty, ?_⟩
  simpa using hregs

end Sys2Proof.Machine

/-! ## NOP, CMD writes while busy, STATUS writes

NOP is acceptance and completion with nothing between them (R255). A CMD write while busy ends alike for a command and for
a reserved word (R254, R273). A STATUS write acts on its three write-1-to-clear bits alone (R256), and the completion step
sets DONE from whatever such a write left (R227). -/

namespace Sys2Proof.Machine

/-! NOP. -/

theorem exec_nop_of_free {s : State} (h : s.status.busy = false) :
    exec .nop s = .next (s.accept .nop).complete :=
  State.request_of_free .nop State.complete h

/-- Settles O5: acceptance and completion in one step by `exec_nop_of_free`, the busy case by `exec_of_busy`. -/
theorem nopSetsDoneOnly : Obligations.NopSetsDoneOnly := by
  unfold Obligations.NopSetsDoneOnly
  refine ⟨decodeWord_eq_ok_iff.mpr (by decide), fun s => ⟨fun hfree => ?_, exec_of_busy .nop⟩⟩
  rw [exec_nop_of_free hfree, State.complete_accept]

/-! A CMD write while busy. -/

/-- Whatever the word, a CMD write while busy sets ERR_BUSY and nothing else (R254, R273). -/
theorem commandWrite_of_busy {s : State} (w : Word) (h : s.status.busy = true) :
    commandWrite w s = .next { s with status := { s.status with errBusy := true } } := by
  unfold commandWrite
  split
  · next i _ => exact exec_of_busy i h
  · rw [State.rejectReserved_of_busy h, State.rejectBusy, Status.onBusyWrite]

/-- Settles O11: the bus write is a CMD write, dropped by `commandWrite_of_busy`. -/
theorem commandWriteWhileBusyIsDropped : Obligations.CommandWriteWhileBusyIsDropped := by
  unfold Obligations.CommandWriteWhileBusyIsDropped
  intro s d hbusy
  rw [hostStep_write_regAddr, writeOffset_cmd, commandWrite_of_busy _ hbusy]

/-! A STATUS write. -/

/-- A 32-bit write at the offset of any register but CMD is a register write (R251). -/
theorem writeOffset_of_ne_cmd {r : Reg} (hr : r ≠ .cmd) (v : Word) (s : State) :
    writeOffset r.offset v s = .next (s.writeReg r v) := by
  rw [writeOffset, atOffset_offset]
  cases r with
  | cmd => exact absurd rfl hr
  | _ => rfl

/-- The write-1-to-clear rule of R256, bit by bit. -/
theorem Status.clearBy_eq_ite (st : Status) (v : Word) :
    st.clearBy v =
      { busy := st.busy
        done := if v.getLsbD 1 then false else st.done
        errOpcode := if v.getLsbD 2 then false else st.errOpcode
        errBusy := if v.getLsbD 3 then false else st.errBusy } := by
  have hbit (old bit : Bool) : (old && !bit) = if bit then false else old := by cases bit <;> simp
  simp only [Status.clearBy, hbit]

/-- The completion step clears BUSY and sets DONE, whether or not it draws the destination (R227, R69). -/
@[simp] theorem State.finishBlit_status (s : State) : s.finishBlit.status = s.status.onFinish := by
  rcases s.finishBlit_cases with ⟨-, he⟩ | ⟨-, he⟩
  · rw [he, State.endRun_status]
  · rw [he, State.endRun_status, State.drawDst_status]

/-- An engine step whose motion is the completion is `finishBlit` (R227). -/
theorem engineStep_of_finish {s : State} (h : (s.engine.next s.params.alpha).2 = .finish) :
    engineStep s = .next s.atMotion.finishBlit := by
  rw [engineStep, h]
  rfl

/-- Settles O20: the write by `Status.clearBy_eq_ite`, the completion by `State.finishBlit_status`, CLRSTAT by its
expansion. -/
theorem statusWriteClearsByOnes : Obligations.StatusWriteClearsByOnes := by
  unfold Obligations.StatusWriteClearsByOnes
  refine ⟨fun s v => ?_, fun s t hstep hfinish => ?_, fun P => rfl⟩
  · have hdata : (v.setWidth 64).setWidth 32 = v := by simp
    rw [hostStep_write_regAddr, hdata, writeOffset_of_ne_cmd (by decide), State.writeReg, Status.clearBy_eq_ite]
  · rw [engineStep_of_finish hfinish] at hstep
    injection hstep with hstep
    rw [← hstep, State.finishBlit_status, Status.onFinish_done]

end Sys2Proof.Machine

/-! ## The reset step

Reset takes every register from `State.resetWith` (R38, R300) and keeps the build, so CONFIG keeps its value and the other
registers read 0. Memory is unchanged where no command runs (R304); a running command is abandoned by a draw over its
destination words, which leaves every byte outside DF alone (R301). -/

namespace Sys2Proof.Machine

/-! Registers. -/

/-- STATUS is 0 at reset: none of its four bits is set (R38). -/
theorem State.resetWith_regValue_status (P : Params) : (State.resetWith P).regValue .status = 0#32 :=
  calc (State.resetWith P).regValue .status
    _ = Status.toWord { busy := false, done := false, errOpcode := false, errBusy := false } := rfl
    _ = 0#32 := by decide

/-- The registers at reset, for every build (R38). -/
theorem State.resetWith_regValue (P : Params) (r : Reg) :
    (State.resetWith P).regValue r = if r = .config then (State.resetWith P).regValue .config else 0#32 := by
  cases r with
  | status => exact State.resetWith_regValue_status P
  | _ => rfl

/-- Reset gives every register the value that it has in `State.resetWith` (R300). -/
theorem State.resetBlock_regValue (s : State) (r : Reg) :
    s.resetBlock.regValue r = (State.resetWith s.params).regValue r := by
  cases r <;> rfl

/-- CONFIG belongs to the build and survives reset; every other register reads 0 after it. -/
theorem State.resetBlock_regValue_eq_ite (s : State) (r : Reg) :
    s.resetBlock.regValue r = if r = .config then s.regValue .config else 0#32 := by
  have hconfig : (State.resetWith s.params).regValue .config = s.regValue .config := State.regValue_config_congr rfl
  rw [State.resetBlock_regValue, State.resetWith_regValue, hconfig]

/-! Memory. -/

theorem State.resetBlock_mem (s : State) :
    s.resetBlock.mem = if s.engine.phase = .run then s.drawDst.mem else s.mem :=
  apply_ite State.mem _ _ _

theorem State.resetBlock_mem_of_run {s : State} (h : s.engine.phase = .run) : s.resetBlock.mem = s.drawDst.mem := by
  rw [State.resetBlock_mem, if_pos h]

/-- Reset leaves memory alone where no command runs (R304). -/
theorem State.resetBlock_mem_of_idle {s : State} (h : s.engine.phase = .idle) : s.resetBlock.mem = s.mem := by
  rw [State.resetBlock_mem, if_neg (by simp [h])]

/-- The draw over a command's destination words leaves every byte outside DF alone. -/
theorem State.read_drawDst_outside {s : State} {b : Word} (h : s.engine.latch.inDst b = false) :
    Memory.read s.drawDst.mem b.toNat = Memory.read s.mem b.toNat := by
  rw [State.drawDst_mem]
  refine Memory.read_drawWords_outside _ _ fun w hw => ?_
  exact Latch.inDst_eq_false.mp h w (List.mem_of_mem_filter hw)

/-- Reset changes no byte outside the latched command's DF (R301, R304). -/
theorem State.read_resetBlock_outside {s : State} {b : Word} (h : s.engine.latch.inDst b = false) :
    Memory.read s.resetBlock.mem b.toNat = Memory.read s.mem b.toNat := by
  cases hphase : s.engine.phase with
  | idle => rw [State.resetBlock_mem_of_idle hphase]
  | run => rw [State.resetBlock_mem_of_run hphase, State.read_drawDst_outside h]

/-- Settles O15: the next state is `resetBlock`; registers by `resetBlock_regValue_eq_ite`, memory by the phase. -/
theorem resetStepSetsResetValues : Obligations.ResetStepSetsResetValues := by
  unfold Obligations.ResetStepSetsResetValues
  intro s
  refine ⟨s.resetBlock, rfl, s.resetBlock_regValue_eq_ite, rfl, fun hidle a => ?_,
    fun b hb => State.read_resetBlock_outside hb⟩
  rw [State.resetBlock_mem_of_idle hidle]

end Sys2Proof.Machine

/-! ## Command words as bytes

The rows of the opcode map are the commands' own words (R92), and four bytes are the bytes of the word they assemble
(R62). So bytes decode to a command exactly when they are its encoding. -/

namespace Sys2Proof

/-- The row of each command in the opcode map holds its own word, and no other row holds the command (R92). -/
theorem mem_opcodeMap_iff {w : Word} {i : Instr} : (w, i) ∈ opcodeMap ↔ w = encodeWord i := by
  constructor
  · have hrows : ∀ row ∈ opcodeMap, row.1 = encodeWord row.2 := by decide
    exact fun hrow => hrows _ hrow
  · rintro rfl
    cases i <;> decide

theorem decodeWord_eq_ok_iff_encodeWord {w : Word} {i : Instr} : decodeWord w = .ok i ↔ w = encodeWord i := by
  rw [decodeWord_eq_ok_iff, mem_opcodeMap_iff]

theorem bytesOfWord_wordOfBytes (b0 b1 b2 b3 : Byte) : bytesOfWord (wordOfBytes b0 b1 b2 b3) = [b0, b1, b2, b3] := by
  obtain ⟨h0, h1, h2, h3⟩ := byteOfWord_wordOfBytes b0 b1 b2 b3
  rw [bytesOfWord, h0, h1, h2, h3]

/-- Four bytes and the rest, as the decoder takes them. -/
theorem decode_cons_eq_ok_iff {b0 b1 b2 b3 : Byte} {bs rest : List Byte} {i : Instr} :
    decode (b0 :: b1 :: b2 :: b3 :: bs) = .ok (i, rest) ↔ decodeWord (wordOfBytes b0 b1 b2 b3) = .ok i ∧ bs = rest := by
  simp only [decode]
  cases decodeWord (wordOfBytes b0 b1 b2 b3) with
  | ok j => simp
  | error e => simp

/-- The decoder reads the bytes of a command's word as the command. -/
theorem decode_encode_append (i : Instr) (rest : List Byte) : decode (encode i ++ rest) = .ok (i, rest) := by
  have hword : decodeWord (encodeWord i) = .ok i := decodeWord_eq_ok_iff_encodeWord.mpr rfl
  refine decode_cons_eq_ok_iff.mpr ⟨?_, rfl⟩
  rw [wordOfBytes_byteOfWord, hword]

/-- Bytes that decode to a command are its encoding, followed by the rest. -/
theorem eq_encode_append_of_decode {bs rest : List Byte} {i : Instr} (h : decode bs = .ok (i, rest)) :
    bs = encode i ++ rest := by
  match bs with
  | b0 :: b1 :: b2 :: b3 :: tail =>
    obtain ⟨hword, rfl⟩ := decode_cons_eq_ok_iff.mp h
    rw [encode, ← decodeWord_eq_ok_iff_encodeWord.mp hword, bytesOfWord_wordOfBytes]
    rfl
  | [] | [_] | [_, _] | [_, _, _] => cases h

/-- Settles O1: the two directions are `eq_encode_append_of_decode` and `decode_encode_append`. -/
theorem decodeReadsExactlyWhatEncodeWrites : Obligations.DecodeReadsExactlyWhatEncodeWrites := by
  unfold Obligations.DecodeReadsExactlyWhatEncodeWrites
  intro bs i rest
  constructor
  · exact fun h => ⟨rfl, eq_encode_append_of_decode h⟩
  · rintro ⟨-, rfl⟩
    exact decode_encode_append i rest

/-- Settles O2: each of the six words is its command's row of the opcode map. -/
theorem opcodeMapWordsDecode : Obligations.OpcodeMapWordsDecode := by
  unfold Obligations.OpcodeMapWordsDecode
  simp only [decodeWord_eq_ok_iff]
  decide

end Sys2Proof

/-! ## The row procedure, move by move

Between two accesses the engine passes, at most, through the head of the row procedure (R195, R197): it stands there with
`i` at the first unwritten pixel of the row, and the head reads that pixel or goes to the next row or to the completion
step. So a motion of a running engine is one of three (`Engine.next_moves`): it reads an unwritten pixel, writes the first
unwritten pixel of its row, or finishes with every pixel written. What later sections need of each is said there once. -/

namespace Sys2Proof.Machine

/-! The head of the row procedure. -/

theorem Engine.SameCommand.trans {e e' e'' : Engine} (h : e.SameCommand e') (h' : e'.SameCommand e'') :
    e.SameCommand e'' :=
  ⟨h'.phase.trans h.phase, h'.latch.trans h.latch, h'.p0.trans h.p0, h'.p1.trans h.p1, h'.t.trans h.t,
    h'.mem0.trans h.mem0, h'.interfered.trans h.interfered⟩

/-- `h` is `e` come to the head of the row procedure: `i` is at the first unwritten pixel of the row. -/
structure Engine.AtHead (e h : Engine) : Prop where
  same : e.SameCommand h
  r : h.r = e.r
  i : h.i = e.writtenInRow
  q0 : h.q0 = e.q0

/-- The head after a pair, of a run loop or of the outer loop (R196). -/
theorem Engine.pairDone_atHead (A : AlphaPos) {e : Engine} (h : e.point = .putQ1) : e.AtHead (e.pairDone A) :=
  ⟨⟨rfl, rfl, rfl, rfl, rfl, rfl, rfl⟩, rfl, by simp [writtenInRow, h, pairDone], rfl⟩

/-- The head after the tail pixel or a pixel of a run. -/
theorem Engine.advance_atHead {e : Engine} (h : e.point = .putTail ∨ e.point = .putT) :
    e.AtHead { e with i := e.i + 1 } :=
  ⟨⟨rfl, rfl, rfl, rfl, rfl, rfl, rfl⟩, rfl, by obtain h | h := h <;> simp [writtenInRow, h], rfl⟩

/-- The head at the command's start, and after a pixel that breaks its run. -/
theorem Engine.self_atHead {e : Engine} (h : e.point = .rowStart ∨ e.point = .gotT) : e.AtHead e :=
  ⟨.rfl' e, rfl, by obtain h | h := h <;> simp [writtenInRow, h], rfl⟩

/-- Where a whole row is written, the engine goes through the head of the outer loop (R198). -/
theorem Engine.next_of_rowWritten (A : AlphaPos) {e : Engine} (hplace : e.placeOk = true) (hw : 0 < e.latch.width)
    (hrow : e.writtenInRow = e.latch.width.toNat) : ∃ h, e.AtHead h ∧ e.next A = h.probe := by
  cases hpt : e.point <;> simp only [placeOk, writtenInRow, hpt, decide_eq_true_eq] at hplace hrow
  case putQ1 =>
    refine ⟨e.pairDone A, e.pairDone_atHead A hpt, ?_⟩
    have hend : (e.pairDone A).latch.width.toNat ≤ (e.pairDone A).i := hrow.ge
    rw [next_putQ1 A hpt, runLoop_rowEnd hend, ite_self]
  case putTail =>
    exact ⟨{ e with i := e.i + 1 }, advance_atHead (.inl hpt), next_putTail A hpt⟩
  case putT =>
    have hend : e.latch.width.toNat ≤ e.i + 1 := hrow.ge
    refine ⟨{ e with i := e.i + 1 }, advance_atHead (.inr hpt), ?_⟩
    rw [next_putT A hpt, runLoop_rowEnd (e := { e with i := e.i + 1 }) hend]
  all_goals omega

/-- Settles O58: the engine is at the head with the row at its end, where `probe_nextRow` and `probe_finish` apply. -/
theorem rowEndGoesToNextRowOrCompletion : Obligations.RowEndGoesToNextRowOrCompletion := by
  unfold Obligations.RowEndGoesToNextRowOrCompletion
  intro A e hplace hw hrow
  obtain ⟨h, hhead, hnext⟩ := e.next_of_rowWritten A hplace hw hrow
  rw [← hhead.same.latch] at hw hrow ⊢
  rw [← hhead.i] at hrow
  rw [hnext, ← hhead.r]
  constructor
  · intro hr
    rw [Engine.probe_nextRow hrow.ge hr hw]
    refine ⟨rfl, rfl, rfl, rfl, ?_⟩
    show (if 2 ≤ h.latch.width.toNat then Point.gotP0 else .gotTail) = _
    split_ifs
    · omega
    · rfl
    · rfl
    · omega
  · intro hr
    rw [Engine.probe_finish hrow.ge hr]
    exact ⟨rfl, rfl⟩

/-! The three motions. -/

/-- How many destination words the command has written, rows and pixels in ascending order. -/
def Engine.writeCount (e : Engine) : Nat := e.r * e.latch.width.toNat + e.writtenInRow

/-- What the accesses of a pair, a tail or a run loop under way count for in `Engine.clock`. -/
def Point.ticks : Point → Nat
  | .rowStart => 0
  | .gotP0 => 3
  | .gotP1 => 4
  | .putQ0 => 2
  | .putQ1 => 0
  | .gotTail => 2
  | .putTail => 0
  | .gotT => 1
  | .putT => 0

/-- A clock that every access of a command advances and that stays within three ticks a pixel (R201): three for each
pixel written, fewer for one whose accesses have begun. -/
def Engine.clock (e : Engine) : Nat := 3 * e.writeCount + e.point.ticks

/-- `e'` is the engine `e` making the read of pixel `k` of row `e'.r`, a pixel that is not written yet. -/
structure Engine.ReadsPixel (A : AlphaPos) (e e' : Engine) (k : Nat) : Prop where
  same : e.SameCommand e'
  row : e'.r < e.latch.height.toNat
  pixel : k < e.latch.width.toNat
  unwritten : e'.writtenInRow ≤ k
  place : e'.placeOk = true
  count : e'.writeCount = e.writeCount
  later : e.clock < e'.clock
  registers : e.RegistersHold A → (e'.receive (e'.src0 k)).RegistersHold A

/-- `e'` is the engine `e` making the write of `v` to the first unwritten pixel of its row. -/
structure Engine.WritesPixel (A : AlphaPos) (e e' : Engine) (v : Word) : Prop where
  same : e.SameCommand e'
  row : e'.r = e.r
  pixel : e.writtenInRow < e.latch.width.toNat
  place : e'.placeOk = true
  count : e'.writtenInRow = e.writtenInRow + 1
  later : e.clock < e'.clock
  registers : e.RegistersHold A → v = pixelFunction A e.latch (e.src0 e.writtenInRow) ∧ e'.RegistersHold A

/-- Every pixel of the rectangle is written. -/
structure Engine.AllWritten (e : Engine) : Prop where
  row : e.r + 1 = e.latch.height.toNat
  pixel : e.writtenInRow = e.latch.width.toNat

/-- What a motion of a running engine is, with the engine as it stands when the motion is made. -/
def Engine.Moves (A : AlphaPos) (e : Engine) (mv : Engine × Motion) : Prop :=
  (∃ k, mv.2 = .read (e.latch.srcAt mv.1.r k) ∧ e.ReadsPixel A mv.1 k) ∨
  (∃ v, mv.2 = .write (e.latch.dstAt e.r e.writtenInRow) v ∧ e.WritesPixel A mv.1 v) ∨
  (mv.2 = .finish ∧ e.AllWritten)

theorem Engine.clock_lt_of_count_eq {e e' : Engine} (hcount : e'.writeCount = e.writeCount)
    (hticks : e.point.ticks < e'.point.ticks) : e.clock < e'.clock := by
  simp only [clock, hcount]
  omega

theorem Engine.clock_lt_of_written {e e' : Engine} (same : e.SameCommand e') (row : e'.r = e.r)
    (count : e'.writtenInRow = e.writtenInRow + 1) (hticks : e.point.ticks < e'.point.ticks + 3) :
    e.clock < e'.clock := by
  simp only [clock, writeCount, same.latch, row, count]
  omega

/-- The read of the pixel at `i`, the first unwritten one: the first of a pair, the tail, or the next of a run. -/
theorem Engine.readsPixel_at_i {A : AlphaPos} {e e' : Engine} (same : e.SameCommand e')
    (hrow : e'.r < e.latch.height.toNat) (hcount : e'.r * e.latch.width.toNat + e'.i = e.writeCount)
    (hticks : e.point.ticks < e'.point.ticks) (hplace : e'.placeOk = true)
    (hpoint : e'.point = .gotP0 ∨ e'.point = .gotTail ∨
      (e'.point = .gotT ∧ (e.RegistersHold A → e'.rd = .constantRun → e'.q0 = pixelFunction A e'.latch e'.p0))) :
    e.ReadsPixel A e' e'.i := by
  have hwritten : e'.writtenInRow = e'.i := by
    obtain hpt | hpt | ⟨hpt, -⟩ := hpoint <;> simp [writtenInRow, hpt]
  have hcount' : e'.writeCount = e.writeCount := by rw [writeCount, same.latch, hwritten, hcount]
  refine ⟨same, hrow, ?_, hwritten.le, hplace, hcount', clock_lt_of_count_eq hcount' hticks, fun hregs => ?_⟩
  · rw [← same.latch]
    obtain hpt | hpt | ⟨hpt, -⟩ := hpoint <;> simp only [placeOk, hpt, decide_eq_true_eq] at hplace <;> omega
  · obtain hpt | hpt | ⟨hpt, hq0⟩ := hpoint
    · simp [RegistersHold, receive, hpt, src0]
    · simp [RegistersHold, receive, hpt, src0]
    · simpa [RegistersHold, receive, hpt, src0] using hq0 hregs

/-- The head of the outer loop reads the next pixel of the rectangle, or there is none (R195, R198, R228, R227). -/
theorem Engine.probe_reads_or_finishes {e : Engine} (hi : e.i ≤ e.latch.width.toNat) (hw : 0 < e.latch.width)
    (hr : e.r < e.latch.height.toNat) :
    (∃ e', e.probe = (e', .read (e.latch.srcAt e'.r e'.i)) ∧ (e'.point = .gotP0 ∨ e'.point = .gotTail) ∧
      e'.placeOk = true ∧ e'.r < e.latch.height.toNat ∧
      e'.r * e.latch.width.toNat + e'.i = e.r * e.latch.width.toNat + e.i) ∨
    (e.probe = ({ e with rd := .probe }, .finish) ∧ e.i = e.latch.width.toNat ∧ e.r + 1 = e.latch.height.toNat) := by
  have hnextRow : (e.r + 1) * e.latch.width.toNat = e.r * e.latch.width.toNat + e.latch.width.toNat := Nat.succ_mul ..
  obtain ⟨hpair, hp⟩ | ⟨htail, hp⟩ | ⟨hend, hnr, hpair, hp⟩ | ⟨hend, hnr, htail, hp⟩ | ⟨hend, hlast, hp⟩ :=
    Engine.probe_cases hi hw
  · exact .inl ⟨_, hp, .inl rfl, by simpa [placeOk] using hpair, hr, rfl⟩
  · exact .inl ⟨_, hp, .inr rfl, by simpa [placeOk] using htail, hr, rfl⟩
  · exact .inl ⟨_, hp, .inl rfl, by simpa [placeOk] using hpair, hnr, by simp only; omega⟩
  · exact .inl ⟨_, hp, .inr rfl, by simpa [placeOk] using htail.symm, hnr, by simp only; omega⟩
  · exact .inr ⟨hp, hend, by omega⟩

theorem Engine.AtHead.writeCount {e h : Engine} (hhead : e.AtHead h) :
    h.r * h.latch.width.toNat + h.i = e.writeCount := by
  rw [hhead.r, hhead.i, hhead.same.latch, Engine.writeCount]

/-- What the head of the outer loop does of the three motions. -/
theorem Engine.AtHead.probe_moves {A : AlphaPos} {e h : Engine} (hhead : e.AtHead h) (hw : 0 < e.latch.width)
    (hr : e.r < e.latch.height.toNat) (hrow : e.writtenInRow ≤ e.latch.width.toNat) (hticks : e.point.ticks ≤ 1) :
    e.Moves A h.probe := by
  have hsame : e.SameCommand h.probe.1 := hhead.same.trans h.probe_sameCommand
  have hcount := hhead.writeCount
  rw [← hhead.same.latch] at hw hr hrow
  rw [← hhead.i] at hrow
  rw [← hhead.r] at hr
  obtain ⟨e', hp, hpoint, hplace, hr', hcount'⟩ | ⟨hp, hend, hlast⟩ := Engine.probe_reads_or_finishes hrow hw hr
  · rw [hp] at hsame ⊢
    refine .inl ⟨e'.i, by rw [hhead.same.latch], Engine.readsPixel_at_i hsame ?_ ?_ ?_ hplace (hpoint.imp_right .inl)⟩
    · rw [← hhead.same.latch]; exact hr'
    · rw [← hhead.same.latch, hcount', hcount]
    · refine hticks.trans_lt ?_
      obtain hpt | hpt := hpoint <;> rw [hpt] <;> decide
  · rw [hp]
    exact .inr (.inr ⟨rfl, ⟨by rw [← hhead.r, hlast, hhead.same.latch], by rw [← hhead.i, hend, hhead.same.latch]⟩⟩)

/-- A run loop reads the next pixel of the row, or does what the head of the outer loop does (R193, R194, R197). -/
theorem Engine.AtHead.runLoop_moves {A : AlphaPos} {e h : Engine} (hhead : e.AtHead h) (hw : 0 < e.latch.width)
    (hr : e.r < e.latch.height.toNat) (hrow : e.writtenInRow ≤ e.latch.width.toNat) (hticks : e.point.ticks = 0)
    (hrd : h.rd ≠ .probe) (hq0 : e.RegistersHold A → h.rd = .constantRun → h.q0 = pixelFunction A h.latch h.p0) :
    e.Moves A h.runLoop := by
  obtain ⟨hi, hloop⟩ | ⟨-, hloop⟩ := h.runLoop_cases
  · have hsame : e.SameCommand h.runLoop.1 := hhead.same.trans h.runLoop_sameCommand
    rw [hloop] at hsame ⊢
    refine .inl ⟨h.i, by rw [hhead.same.latch], Engine.readsPixel_at_i hsame ?_ ?_ ?_ ?_ (.inr (.inr ⟨rfl, hq0⟩))⟩
    · rwa [← hhead.r] at hr
    · rw [← hhead.writeCount, hhead.same.latch]
    · rw [hticks]; exact Nat.zero_lt_one
    · simp only [placeOk, decide_eq_true_eq]
      exact ⟨hi, hrd⟩
  · rw [hloop]
    exact hhead.probe_moves hw hr hrow (by omega)

/-! A pixel that continues its run. -/

theorem pixelFunction_opaque {A : AlphaPos} {p : Word} (l : Latch) (h : A.alpha p = 255#8) :
    pixelFunction A l p = p := by
  unfold pixelFunction
  split
  · rfl
  · exact unpremulPixel_opaque l.clamp h
  · exact premulPixel_opaque h
  · exact unpremulPixel_opaque l.clamp h
  · exact premulPixel_opaque h
  · rfl

/-- What a run loop writes is F of the pixel it has read: an opaque pixel is a fixed point (R202), and in a constant run
the pixel is the one that `q0` was computed from. -/
theorem Engine.runValue_eq_pixelFunction {A : AlphaPos} {e : Engine} (hc : continuesRun A e.rd e.p0 e.t = true)
    (hq0 : e.rd = .constantRun → e.q0 = pixelFunction A e.latch e.p0) :
    e.runValue = pixelFunction A e.latch e.t := by
  cases hrd : e.rd <;> rw [hrd] at hc
  case probe => cases hc
  case solidRun => rw [runValue_solidRun hrd, pixelFunction_opaque e.latch (continuesRun_solidRun.mp hc)]
  case constantRun => rw [runValue_constantRun hrd, continuesRun_constantRun.mp hc, hq0 hrd]

/-! All motions of a running engine. -/

/-- A write of pixel `k` of the row, the first unwritten one. -/
theorem Engine.moves_write {A : AlphaPos} {e e' : Engine} {k : Nat} {v : Word} (same : e.SameCommand e')
    (row : e'.r = e.r) (hk : e.writtenInRow = k) (hk' : e'.writtenInRow = k + 1) (hlt : k < e.latch.width.toNat)
    (place : e'.placeOk = true) (hticks : e.point.ticks < e'.point.ticks + 3)
    (registers : e.RegistersHold A → v = pixelFunction A e.latch (e.src0 k) ∧ e'.RegistersHold A) :
    e.Moves A (e', .write (e.latch.dstAt e.r k) v) := by
  subst hk
  exact .inr (.inl ⟨v, rfl, same, row, hlt, place, hk', clock_lt_of_written same row hk' hticks, registers⟩)

/-- The second read of a pair. -/
theorem Engine.next_gotP0_moves (A : AlphaPos) {e : Engine} (hpt : e.point = .gotP0)
    (hi : e.i + 2 ≤ e.latch.width.toNat) (hr : e.r < e.latch.height.toNat) : e.Moves A (e.next A) := by
  have hsame := e.next_sameCommand A
  rw [next_gotP0 A hpt] at hsame ⊢
  have hcount : Engine.writeCount { e with point := .gotP1 } = e.writeCount := by simp [writeCount, writtenInRow, hpt]
  refine .inl ⟨e.i + 1, rfl, hsame, hr, hi, by simp [writtenInRow], by simpa [placeOk] using hi, hcount,
    clock_lt_of_count_eq hcount (by simp [hpt, Point.ticks]), fun hregs => ?_⟩
  simpa [RegistersHold, receive, hpt, src0] using hregs

/-- The two writes of a pair and the write of the tail. -/
theorem Engine.next_probeWrite_moves (A : AlphaPos) {e : Engine}
    (hpt : e.point = .gotP1 ∨ e.point = .putQ0 ∨ e.point = .gotTail) (hplace : e.placeOk = true) :
    e.Moves A (e.next A) := by
  have hsame := e.next_sameCommand A
  obtain hpt | hpt | hpt := hpt <;> simp only [placeOk, hpt, decide_eq_true_eq] at hplace
  · rw [next_gotP1 A hpt] at hsame ⊢
    refine moves_write hsame rfl (by simp [writtenInRow, hpt]) rfl (by omega) (by simpa [placeOk] using hplace)
      (by simp [hpt, Point.ticks]) fun hregs => ?_
    rw [RegistersHold, hpt] at hregs
    obtain ⟨hp0, hp1⟩ := hregs
    exact ⟨by rw [hp0], hp0, hp1, rfl, rfl⟩
  · rw [next_putQ0 A hpt] at hsame ⊢
    refine moves_write hsame rfl (by simp [writtenInRow, hpt]) rfl (by omega) (by simpa [placeOk] using hplace)
      (by simp [hpt, Point.ticks]) fun hregs => ?_
    rw [RegistersHold, hpt] at hregs
    obtain ⟨hp0, hp1, hq0, hq1⟩ := hregs
    exact ⟨by rw [hq1, hp1], hp0, hp1, hq0, hq1⟩
  · rw [next_gotTail A hpt] at hsame ⊢
    refine moves_write hsame rfl (by simp [writtenInRow, hpt]) rfl (by omega) (by simpa [placeOk] using hplace)
      (by simp [hpt, Point.ticks]) fun hregs => ?_
    rw [RegistersHold, hpt] at hregs
    exact ⟨by rw [hregs], trivial⟩

/-- After a pair: the head of a run loop or of the outer loop (R196). -/
theorem Engine.next_putQ1_moves (A : AlphaPos) {e : Engine} (hpt : e.point = .putQ1)
    (hi : e.i + 2 ≤ e.latch.width.toNat) (hw : 0 < e.latch.width) (hr : e.r < e.latch.height.toNat) :
    e.Moves A (e.next A) := by
  have hhead := e.pairDone_atHead A hpt
  have hrow : e.writtenInRow ≤ e.latch.width.toNat := by simpa [writtenInRow, hpt] using hi
  rw [next_putQ1 A hpt]
  split_ifs with hrd
  · exact hhead.probe_moves hw hr hrow (by simp [hpt, Point.ticks])
  · refine hhead.runLoop_moves hw hr hrow (by simp [hpt, Point.ticks]) hrd fun hregs _ => ?_
    rw [RegistersHold, hpt] at hregs
    obtain ⟨-, -, hq0, -⟩ := hregs
    exact hq0

/-- A run loop with its next pixel read: a write where it continues the run, else the head of the outer loop. -/
theorem Engine.next_gotT_moves (A : AlphaPos) {e : Engine} (hpt : e.point = .gotT) (hi : e.i < e.latch.width.toNat)
    (hrd : e.rd ≠ .probe) (hw : 0 < e.latch.width) (hr : e.r < e.latch.height.toNat) : e.Moves A (e.next A) := by
  have hsame := e.next_sameCommand A
  have hwritten : e.writtenInRow = e.i := by simp [writtenInRow, hpt]
  by_cases hc : continuesRun A e.rd e.p0 e.t = true
  · rw [next_gotT_of_continuesRun hpt hc] at hsame ⊢
    refine moves_write hsame rfl hwritten rfl hi (by simp only [placeOk, decide_eq_true_eq]; exact ⟨hi, hrd⟩)
      (by simp [hpt, Point.ticks]) fun hregs => ?_
    rw [RegistersHold, hpt] at hregs
    obtain ⟨ht, hq0⟩ := hregs
    exact ⟨by rw [runValue_eq_pixelFunction hc hq0, ht], hq0⟩
  · rw [next_gotT A hpt, if_neg hc]
    exact (self_atHead (.inr hpt)).probe_moves hw hr (by omega) (by simp [hpt, Point.ticks])

/-- Every motion of an engine in a row of the rectangle: a read of an unwritten source pixel, a write of the first
unwritten pixel of the row, or the completion step with all pixels written. -/
theorem Engine.next_moves (A : AlphaPos) {e : Engine} (hplace : e.placeOk = true) (hw : 0 < e.latch.width)
    (hr : e.r < e.latch.height.toNat) : e.Moves A (e.next A) := by
  have hplace' := hplace
  cases hpt : e.point <;> simp only [placeOk, hpt, decide_eq_true_eq] at hplace
  case rowStart =>
    rw [next_rowStart A hpt]
    exact (self_atHead (.inl hpt)).probe_moves hw hr (by simp [writtenInRow, hpt, hplace]) (by simp [hpt, Point.ticks])
  case gotP0 => exact next_gotP0_moves A hpt hplace hr
  case gotP1 => exact next_probeWrite_moves A (.inl hpt) hplace'
  case putQ0 => exact next_probeWrite_moves A (.inr (.inl hpt)) hplace'
  case putQ1 => exact next_putQ1_moves A hpt hplace hw hr
  case gotTail => exact next_probeWrite_moves A (.inr (.inr hpt)) hplace'
  case putTail =>
    rw [next_putTail A hpt]
    exact (advance_atHead (.inl hpt)).probe_moves hw hr (by simp only [writtenInRow, hpt]; omega)
      (by simp [hpt, Point.ticks])
  case gotT =>
    obtain ⟨hi, hrd⟩ := hplace
    exact next_gotT_moves A hpt hi hrd hw hr
  case putT =>
    obtain ⟨hi, hrd⟩ := hplace
    rw [next_putT A hpt]
    refine (advance_atHead (.inr hpt)).runLoop_moves hw hr (by simp only [writtenInRow, hpt]; omega)
      (by simp [hpt, Point.ticks]) hrd fun hregs => ?_
    rwa [RegistersHold, hpt] at hregs

/-- The clock's limit: three ticks for each pixel of the rectangle. -/
theorem Engine.clock_le {e : Engine} (hplace : e.placeOk = true) (hr : e.r < e.latch.height.toNat) :
    e.clock ≤ 3 * (e.latch.width.toNat * e.latch.height.toNat) := by
  have hrows : (e.r + 1) * e.latch.width.toNat ≤ e.latch.height.toNat * e.latch.width.toNat :=
    Nat.mul_le_mul_right _ hr
  rw [Nat.succ_mul] at hrows
  rw [Nat.mul_comm e.latch.width.toNat]
  cases hpt : e.point <;> simp only [placeOk, hpt, decide_eq_true_eq] at hplace <;>
    simp only [clock, writeCount, writtenInRow, hpt, Point.ticks] <;> omega

end Sys2Proof.Machine

/-! ## The invariant

Each operation keeps the canonical form of memory, the hardwired bits and the tie of BUSY to RUN; a running engine's next
place is one of the row procedure by `Engine.next_moves`. One lemma per operation, assembled along the inversion lemmas of
the engine's step, the host's step and the machine's. -/

namespace Sys2Proof.Machine

/-! Taking in a word (R195). -/

section Receive

variable (e : Engine) (v : Word)

@[simp] theorem Engine.receive_phase : (e.receive v).phase = e.phase := by
  cases h : e.point <;> simp only [receive, h]

@[simp] theorem Engine.receive_r : (e.receive v).r = e.r := by
  cases h : e.point <;> simp only [receive, h]

@[simp] theorem Engine.receive_latch : (e.receive v).latch = e.latch := by
  cases h : e.point <;> simp only [receive, h]

@[simp] theorem Engine.receive_mem0 : (e.receive v).mem0 = e.mem0 := by
  cases h : e.point <;> simp only [receive, h]

@[simp] theorem Engine.receive_interfered : (e.receive v).interfered = e.interfered := by
  cases h : e.point <;> simp only [receive, h]

@[simp] theorem Engine.receive_placeOk : (e.receive v).placeOk = e.placeOk := by
  cases h : e.point <;> simp only [receive, placeOk, h]

@[simp] theorem Engine.receive_writtenInRow : (e.receive v).writtenInRow = e.writtenInRow := by
  cases h : e.point <;> simp only [receive, writtenInRow, h]

@[simp] theorem Engine.receive_clock : (e.receive v).clock = e.clock := by
  cases h : e.point <;> simp only [receive, clock, writeCount, writtenInRow, h]

end Receive

/-! The parts of the invariant. -/

theorem State.Inv.wf_mem {s : State} (h : s.Inv) : Memory.wf s.mem := by
  obtain ⟨hmem, -⟩ := h
  exact hmem

theorem State.Inv.hardwiredLow {s : State} (h : s.Inv) : s.HardwiredLow := by
  obtain ⟨-, hlow, -⟩ := h
  exact hlow

theorem State.Inv.alignedOperands {s : State} (h : s.Inv) : s.engine.latch.AlignedOperands := by
  obtain ⟨-, -, halign, -⟩ := h
  exact halign

theorem State.Inv.busy_iff {s : State} (h : s.Inv) : s.status.busy = true ↔ s.engine.phase = .run := by
  obtain ⟨-, -, -, hbusy, -⟩ := h
  exact hbusy

theorem State.Inv.running {s : State} (h : s.Inv) (hrun : s.engine.phase = .run) : s.engine.Running := by
  obtain ⟨-, -, -, -, hrunning⟩ := h
  exact hrunning hrun

/-- Where BUSY is 0 no command runs (R31). -/
theorem State.Inv.not_run {s : State} (h : s.Inv) (hfree : s.status.busy = false) : s.engine.phase ≠ .run := by
  rw [Ne, ← h.busy_iff, hfree]
  decide

/-- The invariant speaks of memory, the four aligned registers, BUSY and the engine. -/
theorem State.Inv.congr {s t : State} (h : s.Inv) (hmem : Memory.wf t.mem) (hlow : t.HardwiredLow)
    (hengine : t.engine = s.engine) (hbusy : t.status.busy = s.status.busy) : t.Inv := by
  rw [State.Inv, hengine, hbusy]
  exact ⟨hmem, hlow, h.alignedOperands, h.busy_iff, h.running⟩

/-! The engine's step. -/

theorem Engine.Running.place {e : Engine} (h : e.Running) : e.placeOk = true := by
  obtain ⟨-, -, -, -, hplace, -⟩ := h
  exact hplace

theorem Engine.Running.row {e : Engine} (h : e.Running) : e.r < e.latch.height.toNat := by
  obtain ⟨-, -, -, hrow, -⟩ := h
  exact hrow

theorem Engine.Running.width_pos {e : Engine} (h : e.Running) : 0 < e.latch.width := by
  obtain ⟨-, hw, -⟩ := h
  exact hw

/-- The same command at another place of the row procedure. -/
theorem Engine.Running.move {e e' : Engine} (h : e.Running) (same : e.SameCommand e')
    (row : e'.r < e.latch.height.toNat) (place : e'.placeOk = true) : e'.Running := by
  obtain ⟨hblit, hw, hh, -, -, hmem0⟩ := h
  rw [Engine.Running, same.latch, same.mem0]
  exact ⟨hblit, hw, hh, row, place, hmem0⟩

theorem Engine.Running.receive {e : Engine} (h : e.Running) (v : Word) : (e.receive v).Running := by
  simpa only [Engine.Running, receive_latch, receive_r, receive_placeOk, receive_mem0] using h

theorem State.Inv.next_moves {s : State} (h : s.Inv) (hrun : s.engine.phase = .run) :
    s.engine.Moves s.params.alpha (s.engine.next s.params.alpha) :=
  Engine.next_moves _ (h.running hrun).place (h.running hrun).width_pos (h.running hrun).row

/-- All that an engine step in RUN can do under the invariant: read an unwritten source pixel, write the first unwritten
pixel of the row, or complete with every pixel written. -/
theorem engineStep_run_cases {s t : State} (hinv : s.Inv) (hrun : s.engine.phase = .run)
    (h : engineStep s = .next t) :
    (∃ k, s.engine.ReadsPixel s.params.alpha s.atMotion.engine k ∧
      t = s.atMotion.engineRead (s.engine.latch.srcAt s.atMotion.engine.r k)) ∨
    (∃ v, s.engine.WritesPixel s.params.alpha s.atMotion.engine v ∧
      t = s.atMotion.engineWrite (s.engine.latch.dstAt s.engine.r s.engine.writtenInRow) v) ∨
    (s.engine.AllWritten ∧ t = s.atMotion.finishBlit) := by
  obtain ⟨a, hm, -, rfl⟩ | ⟨a, v, hm, -, rfl⟩ | ⟨hm, rfl⟩ := engineStep_cases h <;>
    obtain ⟨k, hk, hread⟩ | ⟨w, hw, hwrite⟩ | ⟨hf, hall⟩ := hinv.next_moves hrun
  all_goals rw [hm] at *
  case inl.inl =>
    injection hk with hk
    exact .inl ⟨k, hread, by rw [hk]; rfl⟩
  case inr.inl.inr.inl =>
    injection hw with hk hv
    exact .inr (.inl ⟨w, hwrite, by rw [hk, hv]⟩)
  case inr.inr.inr.inr => exact .inr (.inr ⟨hall, rfl⟩)
  all_goals contradiction

@[simp] theorem State.atMotion_mem (s : State) : s.atMotion.mem = s.mem := rfl

@[simp] theorem State.atMotion_status (s : State) : s.atMotion.status = s.status := rfl

theorem State.atMotion_sameCommand (s : State) : s.engine.SameCommand s.atMotion.engine :=
  s.engine.next_sameCommand s.params.alpha

/-- The completion step leaves memory in canonical form (R227, R69). -/
theorem State.finishBlit_wf_mem {s : State} (h : Memory.wf s.mem) : Memory.wf s.finishBlit.mem := by
  obtain ⟨-, he⟩ | ⟨-, he⟩ := s.finishBlit_cases <;> rw [he]
  · exact h
  · exact Memory.drawWords_wf _ _ h

@[simp] theorem State.finishBlit_engine (s : State) : s.finishBlit.engine = { s.engine with phase := .idle } := by
  obtain ⟨-, he⟩ | ⟨-, he⟩ := s.finishBlit_cases <;> rw [he] <;> rfl

theorem State.finishBlit_hardwiredLow {s : State} (h : s.HardwiredLow) : s.finishBlit.HardwiredLow := by
  obtain ⟨-, he⟩ | ⟨-, he⟩ := s.finishBlit_cases <;> rw [he] <;> exact h

theorem engineStep_keeps_inv {s t : State} (hinv : s.Inv) (hrun : s.engine.phase = .run)
    (h : engineStep s = .next t) : t.Inv := by
  have hsame := s.atMotion_sameCommand
  have hrunning := hinv.running hrun
  have hbusy := hinv.busy_iff
  have halign := hinv.alignedOperands
  obtain ⟨k, hread, rfl⟩ | ⟨v, hwrite, rfl⟩ | ⟨-, rfl⟩ := engineStep_run_cases hinv hrun h
  · refine ⟨hinv.wf_mem, hinv.hardwiredLow, ?_, ?_, fun _ => ?_⟩
    · simpa [hsame.latch] using halign
    · simpa [hsame.phase] using hbusy
    · exact (hrunning.move hsame hread.row hread.place).receive _
  · refine ⟨Memory.writeWord_wf _ _ hinv.wf_mem, hinv.hardwiredLow, ?_, ?_, fun _ => ?_⟩
    · simpa [hsame.latch] using halign
    · simpa [hsame.phase] using hbusy
    · exact hrunning.move hsame (hwrite.row ▸ hrunning.row) hwrite.place
  · refine ⟨State.finishBlit_wf_mem hinv.wf_mem, State.finishBlit_hardwiredLow hinv.hardwiredLow, ?_, ?_, fun hidle => ?_⟩
    · simpa [hsame.latch] using halign
    · simp
    · simp at hidle

/-! The host's steps. -/

@[simp] theorem State.writeReg_mem (s : State) (r : Reg) (v : Word) : (s.writeReg r v).mem = s.mem := by
  cases r <;> rfl

@[simp] theorem State.writeReg_engine (s : State) (r : Reg) (v : Word) : (s.writeReg r v).engine = s.engine := by
  cases r <;> rfl

@[simp] theorem State.writeReg_status_busy (s : State) (r : Reg) (v : Word) :
    (s.writeReg r v).status.busy = s.status.busy := by
  cases r <;> rfl

/-- A register write stores 0 in the hardwired bits (R27, R28, R251). -/
theorem State.writeReg_hardwiredLow {s : State} (h : s.HardwiredLow) (r : Reg) (v : Word) :
    (s.writeReg r v).HardwiredLow := by
  have hv := alignWord_aligned v
  obtain ⟨hsrc, hsstride, hdst, hdstride⟩ := h
  cases r with
  | srcAddr => exact ⟨hv, hsstride, hdst, hdstride⟩
  | srcStride => exact ⟨hsrc, hv, hdst, hdstride⟩
  | dstAddr => exact ⟨hsrc, hsstride, hv, hdstride⟩
  | dstStride => exact ⟨hsrc, hsstride, hdst, hv⟩
  | _ => exact ⟨hsrc, hsstride, hdst, hdstride⟩

theorem State.writeReg_keeps_inv {s : State} (h : s.Inv) (r : Reg) (v : Word) : (s.writeReg r v).Inv :=
  h.congr (by simpa using h.wf_mem) (State.writeReg_hardwiredLow h.hardwiredLow r v) (s.writeReg_engine r v)
    (s.writeReg_status_busy r v)

/-- A command that completes in its accepting step leaves the engine idle, with `L` latched. -/
theorem State.accept_keeps_inv {s : State} (h : s.Inv) (hfree : s.status.busy = false) (i : Instr) :
    (s.accept i).Inv := by
  have hidle := h.not_run hfree
  refine ⟨h.wf_mem, h.hardwiredLow, Latch.latchFor_aligned h.hardwiredLow i, h.busy_iff, fun hrun => ?_⟩
  exact absurd hrun hidle

/-- A BLIT with pixels starts at the first pixel of its first row (R226). -/
theorem State.beginRun_keeps_inv {s : State} (h : s.Inv) (hblit : isBlit s.engine.latch.op = true)
    (hpixels : ¬ s.engine.latch.Empty) : s.beginRun.Inv := by
  obtain ⟨hw, hh⟩ := not_or.mp hpixels
  refine ⟨h.wf_mem, h.hardwiredLow, h.alignedOperands, by simp, fun _ => ?_⟩
  refine ⟨hblit, not_le.mp hw, not_le.mp hh, ?_, by simp [Engine.placeOk], h.wf_mem⟩
  show 0 < s.engine.latch.height.toNat
  omega

theorem exec_accepted_keeps_inv {i : Instr} {s t : State} (h : s.Inv) (hfree : s.status.busy = false)
    (hexec : exec i s = .next t) : t.Inv := by
  have haccept := State.accept_keeps_inv h hfree i
  obtain rfl | ⟨-, v, rfl⟩ | ⟨hblit, hpixels, rfl⟩ := exec_accepted hfree hexec
  · exact haccept.congr haccept.wf_mem haccept.hardwiredLow rfl rfl
  · exact haccept.congr haccept.wf_mem haccept.hardwiredLow rfl rfl
  · exact State.beginRun_keeps_inv haccept hblit hpixels

theorem commandWrite_keeps_inv {w : Word} {s t : State} (h : s.Inv) (hcmd : commandWrite w s = .next t) : t.Inv := by
  obtain ⟨-, rfl⟩ | ⟨hfree, i, -, hexec⟩ | ⟨-, -, rfl⟩ := commandWrite_cases hcmd
  · exact h.congr h.wf_mem h.hardwiredLow rfl rfl
  · exact exec_accepted_keeps_inv h hfree hexec
  · exact h.congr h.wf_mem h.hardwiredLow rfl rfl

theorem State.hostStore_keeps_inv {s : State} (h : s.Inv) (a : Word) (size : AccessSize) (d : BusData) :
    (s.hostStore a size d).Inv :=
  ⟨Memory.writeBytes_wf _ _ _ h.wf_mem, h.hardwiredLow, h.alignedOperands, h.busy_iff, h.running⟩

theorem State.resetBlock_wf_mem {s : State} (h : Memory.wf s.mem) : Memory.wf s.resetBlock.mem := by
  rw [State.resetBlock_mem]
  split
  · exact Memory.drawWords_wf _ _ h
  · exact h

/-- The state of a build right after reset, with any memory in canonical form (R38). -/
theorem State.resetBlock_keeps_inv {s : State} (h : s.Inv) : s.resetBlock.Inv := by
  refine ⟨State.resetBlock_wf_mem h.wf_mem, ?_, ?_, ?_, ?_⟩
  · exact ⟨rfl, rfl, rfl, rfl⟩
  · exact ⟨rfl, rfl, rfl, rfl⟩
  · simp [State.resetBlock, Engine.reset]
  · simp [State.resetBlock, Engine.reset]

theorem hostStep_keeps_inv {op : HostOp} {s t : State} (h : s.Inv) (hstep : hostStep op s = .next t) : t.Inv := by
  obtain rfl | ⟨r, v, -, rfl⟩ | ⟨w, hcmd⟩ | ⟨a, size, d, -, -, rfl⟩ | ⟨v, hs, n, rfl⟩ | ⟨-, rfl⟩ := hostStep_cases hstep
  · exact h
  · exact State.writeReg_keeps_inv h r v
  · exact commandWrite_keeps_inv h hcmd
  · exact State.hostStore_keeps_inv h a size d
  · exact h.congr h.wf_mem h.hardwiredLow rfl rfl
  · exact State.resetBlock_keeps_inv h

/-- Settles O53: along the inversion lemma of the machine's step, by the lemma of each agent's step. -/
theorem stepKeepsInvariant : Obligations.StepKeepsInvariant := by
  unfold Obligations.StepKeepsInvariant
  intro s t hinv hstep
  obtain ⟨-, -, rfl⟩ | ⟨hrun, ts, heng⟩ | ⟨op, rest, ts, -, hhost⟩ := step_cases hstep
  · exact hinv
  · have hinv' : State.Inv { s with turns := ts } := hinv
    exact engineStep_keeps_inv hinv' hrun heng
  · have hinv' : State.Inv { s with turns := ts, host := rest } := hinv
    exact hostStep_keeps_inv hinv' hhost

/-- Settles O52: nothing is listed, latched or running at reset. -/
theorem resetSatisfiesInvariant : Obligations.ResetSatisfiesInvariant := by
  unfold Obligations.ResetSatisfiesInvariant
  intro P
  have hidle : (State.resetWith P).engine.phase ≠ .run := by simp [Engine.reset]
  refine ⟨⟨Memory.wf_nil, ⟨rfl, rfl, rfl, rfl⟩, ⟨rfl, rfl, rfl, rfl⟩, ?_, ?_⟩, ?_, ?_⟩
  · simp [Engine.reset]
  · exact fun hrun => absurd hrun hidle
  · exact fun hrun => absurd hrun hidle
  · exact fun hrun => absurd hrun hidle

end Sys2Proof.Machine

/-! ## The writes of a command, in order

The trace of a running command lists the writes of the pixels before the engine's place (R81, R222): a read adds none, a
write adds the next word of DF in the order of the pixels, and the start of a command empties the trace. -/

namespace Sys2Proof.Machine

/-! The pixels of a rectangle, by their number in the order of rows and pixels (R66, R222). -/

theorem Latch.length_pixels (l : Latch) : l.pixels.length = l.height.toNat * l.width.toNat := by
  simp [Latch.pixels]

/-- The pixels are numbered row by row. -/
theorem Latch.getElem?_pixels {l : Latch} {r i : Nat} (hr : r < l.height.toNat) (hi : i < l.width.toNat) :
    l.pixels[r * l.width.toNat + i]? = some (r, i) := by
  unfold Latch.pixels
  generalize l.height.toNat = rows at hr
  induction rows with
  | zero => exact absurd hr (Nat.not_lt_zero r)
  | succ rows ih =>
    have hlen : ((List.range rows).flatMap fun r => (List.range l.width.toNat).map fun i => (r, i)).length =
        rows * l.width.toNat := by simp
    rw [List.range_succ, List.flatMap_append]
    obtain hlt | rfl := Nat.lt_succ_iff_lt_or_eq.mp hr
    · have hrow : (r + 1) * l.width.toNat ≤ rows * l.width.toNat := Nat.mul_le_mul_right _ hlt
      rw [Nat.succ_mul] at hrow
      rw [List.getElem?_append_left (by omega), ih hlt]
    · rw [List.getElem?_append_right (by omega), hlen]
      simp [hi]

theorem Latch.getElem?_dstFootprint {l : Latch} {r i : Nat} (hr : r < l.height.toNat) (hi : i < l.width.toNat) :
    l.dstFootprint[r * l.width.toNat + i]? = some (l.dstAt r i) := by
  rw [Latch.dstFootprint, List.getElem?_map, Latch.getElem?_pixels hr hi]
  rfl

theorem Latch.length_dstFootprint (l : Latch) : l.dstFootprint.length = l.height.toNat * l.width.toNat := by
  rw [Latch.dstFootprint, List.length_map, Latch.length_pixels]

/-! All that a host step can do to the command in RUN. -/

@[simp] theorem State.writeReg_trace (s : State) (r : Reg) (v : Word) : (s.writeReg r v).trace = s.trace := by
  cases r <;> rfl

/-- What is left as it was where a step does not touch the running command. -/
structure State.SameRun (s t : State) : Prop where
  engine : t.engine = s.engine
  mem : t.mem = s.mem
  trace : t.trace = s.trace
  params : t.params = s.params

/-- A host step leaves the engine, memory and the trace alone, or stores to memory, or leaves the engine idle, or starts a
BLIT while not busy. -/
theorem hostStep_run_cases {op : HostOp} {s t : State} (hinv : s.Inv) (h : hostStep op s = .next t) :
    s.SameRun t ∨ (∃ a size d, touchesWindow s.params a size = false ∧ t = s.hostStore a size d) ∨
      t.engine.phase = .idle ∨ (s.status.busy = false ∧ ∃ i, t = (s.accept i).beginRun) := by
  have hidle_of_free (hfree : s.status.busy = false) : s.engine.phase = .idle := by
    cases hphase : s.engine.phase with
    | idle => rfl
    | run => exact absurd hphase (hinv.not_run hfree)
  obtain rfl | ⟨r, v, -, rfl⟩ | ⟨w, hcmd⟩ | ⟨a, size, d, -, hw, rfl⟩ | ⟨v, hs, n, rfl⟩ | ⟨-, rfl⟩ := hostStep_cases h
  · exact .inl ⟨rfl, rfl, rfl, rfl⟩
  · exact .inl ⟨s.writeReg_engine r v, s.writeReg_mem r v, s.writeReg_trace r v, s.writeReg_params r v⟩
  · obtain ⟨-, rfl⟩ | ⟨hfree, i, -, hexec⟩ | ⟨-, -, rfl⟩ := commandWrite_cases hcmd
    · exact .inl ⟨rfl, rfl, rfl, rfl⟩
    · obtain rfl | ⟨-, v, rfl⟩ | ⟨-, -, rfl⟩ := exec_accepted hfree hexec
      · exact .inr (.inr (.inl (hidle_of_free hfree)))
      · exact .inr (.inr (.inl (hidle_of_free hfree)))
      · exact .inr (.inr (.inr ⟨hfree, i, rfl⟩))
    · exact .inl ⟨rfl, rfl, rfl, rfl⟩
  · exact .inr (.inl ⟨a, size, d, hw, rfl⟩)
  · exact .inl ⟨rfl, rfl, rfl, rfl⟩
  · exact .inr (.inr (.inl rfl))

/-! The order of the writes. -/

/-- The invariant of the writes, by the number of writes made. -/
theorem State.writesInv_iff (s : State) :
    s.WritesInv ↔ (s.engine.phase = .run →
      s.writesInOrder = s.engine.latch.dstFootprint.take s.engine.writeCount) := Iff.rfl

theorem State.writesInOrder_of_trace_eq_read {s t : State} {a v : Word} (h : t.trace = .read a v :: s.trace) :
    t.writesInOrder = s.writesInOrder := by
  simp [State.writesInOrder, h, Access.writeAddr]

theorem State.writesInOrder_of_trace_eq_write {s t : State} {a v : Word} (h : t.trace = .write a v :: s.trace) :
    t.writesInOrder = s.writesInOrder ++ [a] := by
  simp [State.writesInOrder, h, Access.writeAddr]

@[simp] theorem State.atMotion_trace (s : State) : s.atMotion.trace = s.trace := rfl

@[simp] theorem State.finishBlit_trace (s : State) : s.finishBlit.trace = s.trace := by
  obtain ⟨-, he⟩ | ⟨-, he⟩ := s.finishBlit_cases <;> rw [he] <;> rfl

@[simp] theorem Engine.receive_writeCount (e : Engine) (v : Word) : (e.receive v).writeCount = e.writeCount := by
  simp [writeCount]

/-- A write makes the count of writes one more. -/
theorem Engine.WritesPixel.writeCount {A : AlphaPos} {e e' : Engine} {v : Word} (h : e.WritesPixel A e' v) :
    e'.writeCount = e.writeCount + 1 := by
  rw [Engine.writeCount, h.same.latch, h.row, h.count, ← Nat.add_assoc, Engine.writeCount]

/-- With every pixel written the count of writes is the number of pixels. -/
theorem Engine.AllWritten.writeCount {e : Engine} (h : e.AllWritten) :
    e.writeCount = e.latch.height.toNat * e.latch.width.toNat := by
  rw [Engine.writeCount, h.pixel, ← h.row, Nat.succ_mul]

theorem engineStep_keeps_writesInv {s t : State} (hinv : s.Inv) (hrun : s.engine.phase = .run) (h : s.WritesInv)
    (hstep : engineStep s = .next t) : t.WritesInv := by
  have hsame := s.atMotion_sameCommand
  have hwrites := s.writesInv_iff.mp h hrun
  obtain ⟨k, hread, rfl⟩ | ⟨v, hwrite, rfl⟩ | ⟨-, rfl⟩ := engineStep_run_cases hinv hrun hstep
  · refine (State.writesInv_iff _).mpr fun _ => ?_
    rw [State.writesInOrder_of_trace_eq_read (s := s) rfl, hwrites]
    simp [hread.count, hsame.latch]
  · refine (State.writesInv_iff _).mpr fun _ => ?_
    have hnext := Latch.getElem?_dstFootprint (hinv.running hrun).row hwrite.pixel
    rw [State.writesInOrder_of_trace_eq_write (s := s) rfl, hwrites, State.engineWrite_engine, hsame.latch,
      hwrite.writeCount, List.take_add_one, Engine.writeCount, hnext]
    rfl
  · intro hidle
    simp at hidle

theorem hostStep_keeps_writesInv {op : HostOp} {s t : State} (hinv : s.Inv) (h : s.WritesInv)
    (hstep : hostStep op s = .next t) : t.WritesInv := by
  obtain hsame | ⟨a, size, d, -, rfl⟩ | hidle | ⟨-, i, rfl⟩ := hostStep_run_cases hinv hstep
  · rw [State.WritesInv, State.writesInOrder, hsame.engine, hsame.trace]
    exact h
  · exact h
  · intro hrun
    rw [hidle] at hrun
    cases hrun
  · intro _
    simp [State.writesInOrder, Engine.writtenInRow]

/-- Settles O55: every step keeps the order of the writes, and at the completion step their number is that of the
pixels. -/
theorem eachDestinationWordIsWrittenOnceInOrder : Obligations.EachDestinationWordIsWrittenOnceInOrder := by
  unfold Obligations.EachDestinationWordIsWrittenOnceInOrder
  constructor
  · intro s t hinv h hstep
    obtain ⟨-, -, rfl⟩ | ⟨hrun, ts, heng⟩ | ⟨op, rest, ts, -, hhost⟩ := step_cases hstep
    · exact h
    · have hinv' : State.Inv { s with turns := ts } := hinv
      have h' : State.WritesInv { s with turns := ts } := h
      exact engineStep_keeps_writesInv hinv' hrun h' heng
    · have hinv' : State.Inv { s with turns := ts, host := rest } := hinv
      have h' : State.WritesInv { s with turns := ts, host := rest } := h
      exact hostStep_keeps_writesInv hinv' h' hhost
  · intro s t hinv h hrun hstep hidle
    have hsame := s.atMotion_sameCommand
    obtain ⟨k, -, rfl⟩ | ⟨v, -, rfl⟩ | ⟨hall, rfl⟩ := engineStep_run_cases hinv hrun hstep
    · simp [hsame.phase, hrun] at hidle
    · simp [hsame.phase, hrun] at hidle
    · have hwrites := s.writesInv_iff.mp h hrun
      rw [hall.writeCount, ← Latch.length_dstFootprint, List.take_length] at hwrites
      rw [← hwrites, State.writesInOrder, State.finishBlit_trace]
      rfl

end Sys2Proof.Machine

/-! ## The progress of a running BLIT

A pixel is written when its number is below the count of writes. The write of pixel `p` puts its final value at `D(p)`,
which is no written pixel's word (D is injective) and no unwritten pixel's source (condition 2 of R68), so what holds of
the other pixels stays. A host write that leaves the footprints alone changes none of their words. -/

namespace Sys2Proof.Machine

/-! Written pixels. -/

theorem Engine.writtenInRow_le {e : Engine} (hplace : e.placeOk = true) : e.writtenInRow ≤ e.latch.width.toNat := by
  cases hpt : e.point <;> simp only [placeOk, writtenInRow, hpt, decide_eq_true_eq] at hplace ⊢ <;> omega

/-- The pixels written are those whose number is below the count of writes. -/
theorem Engine.written_iff {e : Engine} {p : Nat × Nat} (hplace : e.placeOk = true) (hp : p ∈ e.latch.pixels) :
    e.Written p ↔ p.1 * e.latch.width.toNat + p.2 < e.writeCount := by
  obtain ⟨-, hcol⟩ := Latch.mem_pixels.mp hp
  have hle := writtenInRow_le hplace
  obtain hlt | heq | hgt := Nat.lt_trichotomy p.1 e.r
  · have hrows : (p.1 + 1) * e.latch.width.toNat ≤ e.r * e.latch.width.toNat := Nat.mul_le_mul_right _ hlt
    rw [Nat.succ_mul] at hrows
    simp only [Engine.Written, writeCount]
    omega
  · have hrows : p.1 * e.latch.width.toNat = e.r * e.latch.width.toNat := by rw [heq]
    simp only [Engine.Written, writeCount]
    omega
  · have hrows : (e.r + 1) * e.latch.width.toNat ≤ p.1 * e.latch.width.toNat := Nat.mul_le_mul_right _ hgt
    rw [Nat.succ_mul] at hrows
    simp only [Engine.Written, writeCount]
    omega

/-- The pixel that a write is for. -/
theorem Engine.WritesPixel.mem_pixels {A : AlphaPos} {e e' : Engine} {v : Word} (h : e.WritesPixel A e' v)
    (hr : e.r < e.latch.height.toNat) : (e.r, e.writtenInRow) ∈ e.latch.pixels :=
  Latch.mem_pixels.mpr ⟨hr, h.pixel⟩

/-- The pixel that a read is for. -/
theorem Engine.ReadsPixel.mem_pixels {A : AlphaPos} {e e' : Engine} {k : Nat} (h : e.ReadsPixel A e' k) :
    (e'.r, k) ∈ e.latch.pixels :=
  Latch.mem_pixels.mpr ⟨h.row, h.pixel⟩

/-- A read leaves the written pixels as they are. -/
theorem Engine.ReadsPixel.written_iff {A : AlphaPos} {e e' : Engine} {k : Nat} (h : e.ReadsPixel A e' k)
    (hplace : e.placeOk = true) {p : Nat × Nat} (hp : p ∈ e.latch.pixels) : e'.Written p ↔ e.Written p := by
  have hp' : p ∈ e'.latch.pixels := by rwa [h.same.latch]
  rw [Engine.written_iff h.place hp', Engine.written_iff hplace hp, h.same.latch, h.count]

/-- A write adds its pixel to the written ones. -/
theorem Engine.WritesPixel.written_iff {A : AlphaPos} {e e' : Engine} {v : Word} (h : e.WritesPixel A e' v)
    (p : Nat × Nat) : e'.Written p ↔ e.Written p ∨ p = (e.r, e.writtenInRow) := by
  obtain ⟨r, i⟩ := p
  simp only [Engine.Written, h.row, h.count, Prod.mk.injEq]
  omega

theorem Engine.AllWritten.written {e : Engine} (h : e.AllWritten) {p : Nat × Nat} (hp : p ∈ e.latch.pixels) :
    e.Written p := by
  obtain ⟨hr, hi⟩ := Latch.mem_pixels.mp hp
  have hrow := h.row
  have hpixel := h.pixel
  simp only [Engine.Written]
  omega

/-! The engine's step. -/

@[simp] theorem Engine.receive_src0 (e : Engine) (v : Word) (k : Nat) : (e.receive v).src0 k = e.src0 k := by
  simp [src0]

theorem Engine.written_receive (e : Engine) (v : Word) (p : Nat × Nat) : (e.receive v).Written p ↔ e.Written p := by
  simp [Engine.Written]

/-- The final value of a pixel is a matter of the parameters and the command. -/
theorem State.finalWord_congr {s t : State} (hparams : t.params = s.params)
    (hlatch : t.engine.latch = s.engine.latch) (hmem0 : t.engine.mem0 = s.engine.mem0) (p : Nat × Nat) :
    t.finalWord p = s.finalWord p := by
  rw [finalWord, hparams, hlatch, hmem0, finalWord]

theorem State.Inv.dstAt_aligned {s : State} (h : s.Inv) (r i : Nat) : Aligned (s.engine.latch.dstAt r i) :=
  Latch.dstAt_aligned h.alignedOperands r i

theorem State.Inv.srcAt_aligned {s : State} (h : s.Inv) (r i : Nat) : Aligned (s.engine.latch.srcAt r i) :=
  Latch.srcAt_aligned h.alignedOperands r i

theorem engineRead_keeps_progress {s : State} {k : Nat} (hinv : s.Inv) (hrun : s.engine.phase = .run)
    (h : s.Progress) (hread : s.engine.ReadsPixel s.params.alpha s.atMotion.engine k) :
    (s.atMotion.engineRead (s.engine.latch.srcAt s.atMotion.engine.r k)).Progress := by
  obtain ⟨hfinal, hsource, hregs⟩ := h
  have hplace := (hinv.running hrun).place
  have hlatch := hread.same.latch
  have hmem0 := hread.same.mem0
  have hunwritten : ¬ s.engine.Written (s.atMotion.engine.r, k) := by
    rw [← hread.written_iff hplace hread.mem_pixels]
    have hk := hread.unwritten
    simp only [Engine.Written]
    omega
  have hword : Memory.readWord s.mem (s.engine.latch.srcAt s.atMotion.engine.r k) = s.atMotion.engine.src0 k := by
    rw [hsource _ hread.mem_pixels hunwritten, Engine.src0, hlatch, hmem0]
  refine ⟨fun p hp hwritten => ?_, fun p hp hwritten => ?_, ?_⟩
  · simp only [State.engineRead_engine, Engine.receive_latch, hlatch] at hp ⊢
    rw [State.engineRead_engine, Engine.written_receive, hread.written_iff hplace hp] at hwritten
    refine (hfinal p hp hwritten).trans (State.finalWord_congr (s := s)
      (t := s.atMotion.engineRead _) rfl ?_ ?_ p).symm
    · rw [State.engineRead_engine, Engine.receive_latch, hlatch]
    · rw [State.engineRead_engine, Engine.receive_mem0, hmem0]
  · simp only [State.engineRead_engine, Engine.receive_latch, Engine.receive_mem0, hlatch, hmem0] at hp ⊢
    rw [State.engineRead_engine, Engine.written_receive, hread.written_iff hplace hp] at hwritten
    exact hsource p hp hwritten
  · rw [State.engineRead_engine, State.atMotion_mem, hword]
    exact hread.registers hregs

theorem engineWrite_keeps_progress {s : State} {v : Word} (hinv : s.Inv) (hrun : s.engine.phase = .run)
    (hdef : s.engine.latch.WellDefined) (h : s.Progress)
    (hwrite : s.engine.WritesPixel s.params.alpha s.atMotion.engine v) :
    (s.atMotion.engineWrite (s.engine.latch.dstAt s.engine.r s.engine.writtenInRow) v).Progress := by
  obtain ⟨hfinal, hsource, hregs⟩ := h
  obtain ⟨hinj, hapart⟩ := hdef
  have hlatch := hwrite.same.latch
  have hmem0 := hwrite.same.mem0
  have hpixel := hwrite.mem_pixels (hinv.running hrun).row
  obtain ⟨hv, hregs'⟩ := hwrite.registers hregs
  refine ⟨fun p hp hwritten => ?_, fun p hp hwritten => ?_, hregs'⟩
  · rw [State.engineWrite_engine] at hp hwritten
    rw [hlatch] at hp
    rw [State.finalWord_congr (s := s) (t := s.atMotion.engineWrite _ _) rfl hlatch hmem0, State.engineWrite_engine,
      hlatch]
    by_cases hnew : p = (s.engine.r, s.engine.writtenInRow)
    · subst hnew
      exact (Memory.readWord_writeWord_same _ _ hinv.wf_mem).trans hv
    · have hold := ((hwrite.written_iff p).mp hwritten).resolve_right hnew
      have hne := fun heq => hnew (hinj _ hpixel p hp heq).symm
      exact (Memory.readWord_writeWord_other _ _ (hinv.dstAt_aligned ..) (hinv.dstAt_aligned ..) hne).trans
        (hfinal p hp hold)
  · rw [State.engineWrite_engine] at hp hwritten
    rw [hlatch] at hp
    rw [State.engineWrite_engine, hlatch, hmem0]
    obtain ⟨hold, hnew⟩ := not_or.mp (mt (hwrite.written_iff p).mpr hwritten)
    have hne := fun heq => hnew (hapart _ hpixel p hp heq).symm
    exact (Memory.readWord_writeWord_other _ _ (hinv.dstAt_aligned ..) (hinv.srcAt_aligned ..) hne).trans
      (hsource p hp hold)

theorem engineStep_keeps_progressInv {s t : State} (hinv : s.Inv) (hrun : s.engine.phase = .run)
    (h : s.ProgressInv) (hstep : engineStep s = .next t) : t.ProgressInv := by
  have hsame := s.atMotion_sameCommand
  obtain ⟨k, hread, rfl⟩ | ⟨v, hwrite, rfl⟩ | ⟨-, rfl⟩ := engineStep_run_cases hinv hrun hstep
  · intro _ hdef
    simp only [Engine.Defined, State.engineRead_engine, Engine.receive_latch, Engine.receive_interfered, hsame.latch,
      hsame.interfered] at hdef
    exact engineRead_keeps_progress hinv hrun (h hrun hdef) hread
  · intro _ hdef
    simp only [Engine.Defined, State.engineWrite_engine, hsame.latch, hsame.interfered] at hdef
    exact engineWrite_keeps_progress hinv hrun hdef.1 (h hrun hdef) hwrite
  · intro hidle
    simp at hidle

/-! The host's steps. -/

theorem Latch.dstAt_mem_dstFootprint {l : Latch} {p : Nat × Nat} (hp : p ∈ l.pixels) :
    l.dstAt p.1 p.2 ∈ l.dstFootprint :=
  Latch.mem_dstFootprint.mpr ⟨p, hp, rfl⟩

theorem Latch.srcAt_mem_srcFootprint {l : Latch} {p : Nat × Nat} (hp : p ∈ l.pixels) :
    l.srcAt p.1 p.2 ∈ l.srcFootprint :=
  Latch.mem_srcFootprint.mpr ⟨p, hp, rfl⟩

/-- A host write outside the footprints changes no word of them. -/
theorem Memory.readWord_writeBytes_outside (m : Memory) {w a : Word} {n : Nat} (d : BusData)
    (h : ∀ b ∈ span a n, wordHolds w b = false) :
    Memory.readWord (Memory.writeBytes m a n d) w = Memory.readWord m w := by
  refine Memory.readWord_congr fun b hb => Memory.read_writeBytes_outside m d fun hspan => ?_
  rw [h b hspan] at hb
  cases hb

/-- The bytes of a host write that does not touch the footprints of the command in RUN. -/
theorem State.disturbs_eq_false_iff {s : State} {a : Word} {size : AccessSize} (hrun : s.engine.phase = .run) :
    s.disturbs a size = false ↔
      ∀ b ∈ span a size.bytes, s.engine.latch.inSrc b = false ∧ s.engine.latch.inDst b = false := by
  simp [State.disturbs, hrun]

theorem hostStore_keeps_progressInv {s : State} (h : s.ProgressInv) (a : Word) (size : AccessSize) (d : BusData) :
    (s.hostStore a size d).ProgressInv := by
  intro hrun hdef
  obtain ⟨hwell, hmark⟩ := hdef
  rw [State.hostStore_engine] at hmark hrun
  obtain ⟨hint, hdist⟩ := Bool.or_eq_false_iff.mp hmark
  have hbytes := (State.disturbs_eq_false_iff hrun).mp hdist
  obtain ⟨hfinal, hsource, hregs⟩ := h hrun ⟨hwell, hint⟩
  refine ⟨fun p hp hwritten => ?_, fun p hp hwritten => ?_, hregs⟩
  · refine (Memory.readWord_writeBytes_outside s.mem d fun b hb => ?_).trans (hfinal p hp hwritten)
    exact Latch.inDst_eq_false.mp (hbytes b hb).2 _ (Latch.dstAt_mem_dstFootprint hp)
  · refine (Memory.readWord_writeBytes_outside s.mem d fun b hb => ?_).trans (hsource p hp hwritten)
    exact Latch.inSrc_eq_false.mp (hbytes b hb).1 _ (Latch.srcAt_mem_srcFootprint hp)

/-- At the start of a command no pixel is written and memory is the memory of acceptance. -/
theorem State.beginRun_progress (s : State) : s.beginRun.Progress := by
  refine ⟨fun p _ hwritten => ?_, fun p _ _ => rfl, trivial⟩
  simp [Engine.Written, Engine.writtenInRow] at hwritten

theorem hostStep_keeps_progressInv {op : HostOp} {s t : State} (hinv : s.Inv) (h : s.ProgressInv)
    (hstep : hostStep op s = .next t) : t.ProgressInv := by
  obtain hsame | ⟨a, size, d, -, rfl⟩ | hidle | ⟨-, i, rfl⟩ := hostStep_run_cases hinv hstep
  · simpa only [State.ProgressInv, State.Progress, State.finalWord, hsame.engine, hsame.mem, hsame.params] using h
  · exact hostStore_keeps_progressInv h a size d
  · intro hrun
    rw [hidle] at hrun
    cases hrun
  · exact fun _ _ => State.beginRun_progress _

/-- Settles O54: along the inversion lemma of the machine's step, by the lemma of each agent's step. -/
theorem stepKeepsProgress : Obligations.StepKeepsProgress := by
  unfold Obligations.StepKeepsProgress
  intro s t hinv h hstep
  obtain ⟨-, -, rfl⟩ | ⟨hrun, ts, heng⟩ | ⟨op, rest, ts, -, hhost⟩ := step_cases hstep
  · exact h
  · have hinv' : State.Inv { s with turns := ts } := hinv
    have h' : State.ProgressInv { s with turns := ts } := h
    exact engineStep_keeps_progressInv hinv' hrun h' heng
  · have hinv' : State.Inv { s with turns := ts, host := rest } := hinv
    have h' : State.ProgressInv { s with turns := ts, host := rest } := h
    exact hostStep_keeps_progressInv hinv' h' hhost

end Sys2Proof.Machine

/-! ## The addresses of the engine

Every motion of a running engine is for a pixel of the rectangle (`Engine.next_moves`), so its address is a word of SF or
of DF (R66), formed from aligned operands (R63); an engine step changes no byte outside DF, the completion's draw
included. -/

namespace Sys2Proof.Machine

/-! Alignment, in RUN or not. -/

/-- A motion of the command `l`: a read at some `S(r, k)`, a write at some `D(r, k)` (R191), or the completion. -/
def Motion.IsOf (l : Latch) : Motion → Prop
  | .read a => ∃ r k, a = l.srcAt r k
  | .write a _ => ∃ r k, a = l.dstAt r k
  | .finish => True

theorem Engine.probe_isOf (e : Engine) : e.probe.2.IsOf e.latch := by
  unfold probe probePixel readSrc
  split_ifs
  · exact ⟨_, _, rfl⟩
  · exact ⟨_, _, rfl⟩
  · exact ⟨_, _, rfl⟩
  · exact ⟨_, _, rfl⟩
  · trivial

theorem Engine.runLoop_isOf (e : Engine) : e.runLoop.2.IsOf e.latch := by
  obtain ⟨-, hloop⟩ | ⟨-, hloop⟩ := e.runLoop_cases <;> rw [hloop]
  · exact ⟨_, _, rfl⟩
  · exact e.probe_isOf

/-- Whatever the place, the engine's motion is one of its command. -/
theorem Engine.next_isOf (A : AlphaPos) (e : Engine) : (e.next A).2.IsOf e.latch := by
  cases hpt : e.point
  case rowStart => rw [next_rowStart A hpt]; exact e.probe_isOf
  case gotP0 => rw [next_gotP0 A hpt]; exact ⟨_, _, rfl⟩
  case gotP1 => rw [next_gotP1 A hpt]; exact ⟨_, _, rfl⟩
  case putQ0 => rw [next_putQ0 A hpt]; exact ⟨_, _, rfl⟩
  case putQ1 =>
    rw [next_putQ1 A hpt]
    split_ifs
    · exact (e.pairDone A).probe_isOf
    · exact (e.pairDone A).runLoop_isOf
  case gotTail => rw [next_gotTail A hpt]; exact ⟨_, _, rfl⟩
  case putTail => rw [next_putTail A hpt]; exact Engine.probe_isOf _
  case gotT =>
    rw [next_gotT A hpt]
    split_ifs
    · exact ⟨_, _, rfl⟩
    · exact e.probe_isOf
  case putT => rw [next_putT A hpt]; exact Engine.runLoop_isOf _

/-- Settles O39: every address is a pixel's address, formed from aligned operands. -/
theorem engineAddressesAreAligned : Obligations.EngineAddressesAreAligned := by
  unfold Obligations.EngineAddressesAreAligned
  intro s hinv
  have hof := s.engine.next_isOf s.params.alpha
  refine ⟨fun a h => ?_, fun a v h => ?_⟩ <;> rw [h] at hof <;> obtain ⟨r, k, rfl⟩ := hof
  · exact hinv.srcAt_aligned r k
  · exact hinv.dstAt_aligned r k

/-! Footprints, in RUN. -/

theorem State.Inv.read_mem_srcFootprint {s : State} (hinv : s.Inv) (hrun : s.engine.phase = .run) {a : Word}
    (h : (s.engine.next s.params.alpha).2 = .read a) : a ∈ s.engine.latch.srcFootprint := by
  obtain ⟨k, hk, hread⟩ | ⟨w, hw, -⟩ | ⟨hf, -⟩ := hinv.next_moves hrun
  · obtain rfl : a = _ := by simpa using h.symm.trans hk
    have hmem := Latch.srcAt_mem_srcFootprint hread.mem_pixels
    exact hmem
  · rw [h] at hw
    cases hw
  · rw [h] at hf
    cases hf

theorem State.Inv.write_mem_dstFootprint {s : State} (hinv : s.Inv) (hrun : s.engine.phase = .run) {a v : Word}
    (h : (s.engine.next s.params.alpha).2 = .write a v) : a ∈ s.engine.latch.dstFootprint := by
  obtain ⟨k, hk, -⟩ | ⟨w, hw, hwrite⟩ | ⟨hf, -⟩ := hinv.next_moves hrun
  · rw [h] at hk
    cases hk
  · obtain ⟨rfl, -⟩ : a = _ ∧ v = w := by simpa using h.symm.trans hw
    have hmem := Latch.dstAt_mem_dstFootprint (hwrite.mem_pixels (hinv.running hrun).row)
    exact hmem
  · rw [h] at hf
    cases hf

/-- The completion step changes no byte outside DF (R227, R69). -/
theorem State.read_finishBlit_outside {s : State} {b : Word} (h : s.engine.latch.inDst b = false) :
    Memory.read s.finishBlit.mem b.toNat = Memory.read s.mem b.toNat := by
  obtain ⟨-, he⟩ | ⟨-, he⟩ := s.finishBlit_cases <;> rw [he]
  · rfl
  · exact State.read_drawDst_outside h

theorem engineStep_read_outside {s t : State} (hinv : s.Inv) (hrun : s.engine.phase = .run)
    (h : engineStep s = .next t) {b : Word} (hb : s.engine.latch.inDst b = false) :
    Memory.read t.mem b.toNat = Memory.read s.mem b.toNat := by
  have hlatch := s.atMotion_sameCommand.latch
  obtain ⟨k, -, rfl⟩ | ⟨v, hwrite, rfl⟩ | ⟨-, rfl⟩ := engineStep_run_cases hinv hrun h
  · rfl
  · have hmem := Latch.dstAt_mem_dstFootprint (hwrite.mem_pixels (hinv.running hrun).row)
    exact Memory.read_writeWord_outside _ _ (Latch.inDst_eq_false.mp hb _ hmem)
  · rw [State.read_finishBlit_outside (by rwa [hlatch]), State.atMotion_mem]

/-- Settles O40: each motion is for a pixel of the rectangle; the step's frame is `engineStep_read_outside`. -/
theorem engineStaysInFootprints : Obligations.EngineStaysInFootprints := by
  unfold Obligations.EngineStaysInFootprints
  exact fun s hinv hrun => ⟨fun a => hinv.read_mem_srcFootprint hrun, fun a v => hinv.write_mem_dstFootprint hrun,
    fun t hstep b => engineStep_read_outside hinv hrun hstep⟩

end Sys2Proof.Machine

/-! ## Completion, and the result of a BLIT

Each engine step of a command in RUN advances the clock, which stays within three ticks a pixel, so the engine comes to
its completion step within so many steps (R201). What every engine step keeps holds there: of a well-defined command the
progress, with every pixel written (R229). -/

namespace Sys2Proof.Machine

/-! Runs. -/

/-- A run that begins with a step that answers a next state. -/
theorem run_succ_of_step {M : Host.Core} {n : Nat} {s t : M.State} (h : M.step s = .next t) :
    M.run (n + 1) s = M.run n t := by
  rw [Host.Core.run, h]

/-- With no host access to come, a step in RUN is the engine's (R258). -/
theorem step_of_run_no_host {s : State} (hrun : s.engine.phase = .run) (hhost : s.host = []) :
    step s = engineStep s := by
  simp only [step, takeTurn, State.nextAgent, State.spendTurn, hrun, hhost]

/-! What an engine step leaves alone. -/

/-- The completion step changes STATUS, the phase and, where it draws, memory (R227, R69). -/
theorem State.finishBlit_frame (s : State) :
    (∀ r, r ≠ .status → s.finishBlit.regValue r = s.regValue r) ∧ s.finishBlit.host = s.host ∧
      s.finishBlit.turns = s.turns ∧ s.finishBlit.reads = s.reads := by
  have hregs (t : State) (r : Reg) (hr : r ≠ .status) : t.endRun.regValue r = t.regValue r := by
    cases r with
    | status => exact absurd rfl hr
    | _ => rfl
  obtain ⟨-, he⟩ | ⟨-, he⟩ := s.finishBlit_cases <;> rw [he]
  · exact ⟨hregs s, rfl, rfl, rfl⟩
  · refine ⟨fun r hr => (hregs s.drawDst r hr).trans ?_, rfl, rfl, rfl⟩
    cases r <;> rfl

/-- Settles O41: an access changes no register; the completion step by its frame. -/
theorem engineStepFrame : Obligations.EngineStepFrame := by
  unfold Obligations.EngineStepFrame
  intro s t h
  obtain ⟨-, hlatch, -, -, -, hmem0, hmark⟩ := s.atMotion_sameCommand
  obtain ⟨a, -, -, rfl⟩ | ⟨a, v, -, -, rfl⟩ | ⟨-, rfl⟩ := engineStep_cases h
  · refine ⟨fun r _ => by cases r <;> rfl, rfl, rfl, rfl, ?_, ?_, ?_, rfl, rfl, rfl⟩
    · rw [State.engineRead_engine, Engine.receive_latch, hlatch]
    · rw [State.engineRead_engine, Engine.receive_mem0, hmem0]
    · rw [State.engineRead_engine, Engine.receive_interfered, hmark]
  · exact ⟨fun r _ => by cases r <;> rfl, rfl, rfl, rfl, hlatch, hmem0, hmark, rfl, rfl, rfl⟩
  · obtain ⟨hregs, hhost, hturns, hreads⟩ := s.atMotion.finishBlit_frame
    refine ⟨fun r hr => (hregs r hr).trans (by cases r <;> rfl), ?_, ?_, ?_, ?_, ?_, ?_, hhost, hturns, hreads⟩
    · rw [State.finishBlit_status]; rfl
    · rw [State.finishBlit_status]; rfl
    · rw [State.finishBlit_params]; rfl
    · rw [State.finishBlit_engine, ← hlatch]
    · rw [State.finishBlit_engine, ← hmem0]
    · rw [State.finishBlit_engine, ← hmark]

theorem engineStep_latch {s t : State} (h : engineStep s = .next t) : t.engine.latch = s.engine.latch := by
  obtain ⟨-, -, -, -, hlatch, -⟩ := engineStepFrame s t h
  exact hlatch

theorem engineStep_mem0 {s t : State} (h : engineStep s = .next t) : t.engine.mem0 = s.engine.mem0 := by
  obtain ⟨-, -, -, -, -, hmem0, -⟩ := engineStepFrame s t h
  exact hmem0

theorem engineStep_interfered {s t : State} (h : engineStep s = .next t) :
    t.engine.interfered = s.engine.interfered := by
  obtain ⟨-, -, -, -, -, -, hmark, -⟩ := engineStepFrame s t h
  exact hmark

theorem engineStep_host {s t : State} (h : engineStep s = .next t) : t.host = s.host := by
  obtain ⟨-, -, -, -, -, -, -, hhost, -⟩ := engineStepFrame s t h
  exact hhost

/-! To the completion step. -/

theorem Latch.UsableOn.engineStep_next {s : State} (huse : s.engine.latch.UsableOn s.params) (hinv : s.Inv)
    (hrun : s.engine.phase = .run) : ∃ t, engineStep s = .next t := by
  obtain ⟨hread, hwrite⟩ := huse
  exact engineStep_next_of_usable (fun a h => hread a (hinv.read_mem_srcFootprint hrun h))
    fun a v h => hwrite a (hinv.write_mem_dstFootprint hrun h)

/-- An engine step in RUN advances the clock, or completes the command. -/
theorem engineStep_run_advances {s t : State} (hinv : s.Inv) (hrun : s.engine.phase = .run)
    (h : engineStep s = .next t) :
    (t.engine.phase = .run ∧ s.engine.clock < t.engine.clock) ∨
      (s.engine.AllWritten ∧ t = s.atMotion.finishBlit) := by
  have hphase := s.atMotion_sameCommand.phase.trans hrun
  obtain ⟨k, hread, rfl⟩ | ⟨v, hwrite, rfl⟩ | hfinish := engineStep_run_cases hinv hrun h
  · exact .inl ⟨by simpa using hphase, by simpa using hread.later⟩
  · exact .inl ⟨hphase, hwrite.later⟩
  · exact .inr hfinish

/-- With the host doing nothing and memory usable, a step in RUN advances the clock within its limit, or completes the
command. -/
theorem step_advances {s : State} (hinv : s.Inv) (hrun : s.engine.phase = .run) (hhost : s.host = [])
    (huse : s.engine.latch.UsableOn s.params) :
    (∃ t, step s = .next t ∧ engineStep s = .next t ∧ t.engine.phase = .run ∧ s.engine.clock < t.engine.clock ∧
      t.engine.clock ≤ 3 * (s.engine.latch.width.toNat * s.engine.latch.height.toNat)) ∨
    (step s = .next s.atMotion.finishBlit ∧ s.engine.AllWritten) := by
  obtain ⟨t, hengine⟩ := huse.engineStep_next hinv hrun
  have hstep : step s = .next t := by rw [step_of_run_no_host hrun hhost, hengine]
  obtain ⟨hrun', hclock⟩ | ⟨hall, rfl⟩ := engineStep_run_advances hinv hrun hengine
  · have hrunning := (engineStep_keeps_inv hinv hrun hengine).running hrun'
    have hle := Engine.clock_le hrunning.place hrunning.row
    rw [engineStep_latch hengine] at hle
    exact .inl ⟨t, hstep, hengine, hrun', hclock, hle⟩
  · exact .inr ⟨hstep, hall⟩

/-- With the host doing nothing, a running engine comes to an engine step that completes the command, within as many steps
as its clock has ticks left and one more (R201). What every engine step in RUN keeps holds before that step. -/
theorem exists_run_to_finish {P : State → Prop}
    (hkeep : ∀ s t, s.Inv → s.engine.phase = .run → P s → engineStep s = .next t → P t) (k : Nat) {s : State}
    (hinv : s.Inv) (hrun : s.engine.phase = .run) (hhost : s.host = []) (huse : s.engine.latch.UsableOn s.params)
    (hP : P s) (hk : 3 * (s.engine.latch.width.toNat * s.engine.latch.height.toNat) ≤ s.engine.clock + k) :
    ∃ n u, n ≤ k + 1 ∧ Host.Core.run core n s = .next u.atMotion.finishBlit ∧ u.engine.phase = .run ∧
      u.engine.AllWritten ∧ P u := by
  induction k generalizing s with
  | zero =>
    obtain ⟨t, -, -, -, hclock, hle⟩ | ⟨hstep, hall⟩ := step_advances hinv hrun hhost huse
    · omega
    · exact ⟨1, s, le_rfl, run_succ_of_step (M := core) hstep, hrun, hall, hP⟩
  | succ k ih =>
    obtain ⟨t, hstep, hengine, hrun', hclock, -⟩ | ⟨hstep, hall⟩ := step_advances hinv hrun hhost huse
    · have hlatch := engineStep_latch hengine
      obtain ⟨n, u, hn, hfinish, hu⟩ := ih (engineStep_keeps_inv hinv hrun hengine) hrun'
        ((engineStep_host hengine).trans hhost) (by rwa [hlatch, engineStep_params hengine])
        (hkeep s t hinv hrun hP hengine) (by rw [hlatch]; omega)
      exact ⟨n + 1, u, by omega, (run_succ_of_step (M := core) hstep).trans hfinish, hu⟩
    · exact ⟨1, s, by omega, run_succ_of_step (M := core) hstep, hrun, hall, hP⟩

/-- Settles O56: the clock starts at 0 at the least. -/
theorem runningBlitCompletes : Obligations.RunningBlitCompletes := by
  unfold Obligations.RunningBlitCompletes
  intro s hinv hrun hhost huse
  obtain ⟨n, u, hn, hfinish, -⟩ := exists_run_to_finish (P := fun _ => True) (fun _ _ _ _ _ _ => trivial) _ hinv hrun
    hhost huse trivial (Nat.le_add_left _ s.engine.clock)
  exact ⟨n, _, hn, hfinish, by simp, by simp, by simp⟩

/-! The completion step. -/

/-- Where R229 gives the result, the completion step leaves memory as it is. -/
theorem State.finishBlit_mem_of_defined {s : State} (h : s.engine.Defined) : s.finishBlit.mem = s.mem := by
  obtain ⟨-, he⟩ | ⟨hn, -⟩ := s.finishBlit_cases
  · rw [he, State.endRun_mem]
  · exact absurd h hn

theorem State.atMotion_defined_iff (s : State) : s.atMotion.engine.Defined ↔ s.engine.Defined := by
  rw [Engine.Defined, s.atMotion_sameCommand.latch, s.atMotion_sameCommand.interfered]

/-- Settles O50: with the last row written the motion is the completion, by `rowEndGoesToNextRowOrCompletion`. -/
theorem completionStepAfterLastWrite : Obligations.CompletionStepAfterLastWrite := by
  unfold Obligations.CompletionStepAfterLastWrite
  intro s hinv hrun hrow hpixel
  have hrunning := hinv.running hrun
  obtain ⟨-, hlast⟩ :=
    rowEndGoesToNextRowOrCompletion s.params.alpha s.engine hrunning.place hrunning.width_pos hpixel
  obtain ⟨hfinish, -⟩ := hlast hrow.ge
  refine ⟨_, engineStep_of_finish hfinish, by simp, by simp, by simp, by simp, fun hdef => ?_⟩
  rw [State.finishBlit_mem_of_defined (s.atMotion_defined_iff.mpr hdef), State.atMotion_mem]

/-! The result. -/

/-- What every engine step of a command keeps, towards its result: the parameters, the command `l` accepted with memory
`m` and untouched by host writes, its progress, and the bytes outside DF. -/
structure State.Working (P : Params) (l : Latch) (m : Memory) (s : State) : Prop where
  params : s.params = P
  latch : s.engine.latch = l
  mem0 : s.engine.mem0 = m
  untouched : s.engine.interfered = false
  progress : s.ProgressInv
  outside : ∀ b : Word, l.inDst b = false → Memory.read s.mem b.toNat = Memory.read m b.toNat

theorem engineStep_keeps_working {P : Params} {l : Latch} {m : Memory} {s t : State} (hinv : s.Inv)
    (hrun : s.engine.phase = .run) (h : s.Working P l m) (hstep : engineStep s = .next t) : t.Working P l m where
  params := (engineStep_params hstep).trans h.params
  latch := (engineStep_latch hstep).trans h.latch
  mem0 := (engineStep_mem0 hstep).trans h.mem0
  untouched := (engineStep_interfered hstep).trans h.untouched
  progress := engineStep_keeps_progressInv hinv hrun h.progress hstep
  outside b hb := (engineStep_read_outside hinv hrun hstep (by rwa [h.latch])).trans (h.outside b hb)

theorem State.beginRun_working (s : State) : s.beginRun.Working s.params s.engine.latch s.mem :=
  ⟨rfl, rfl, rfl, rfl, fun _ _ => s.beginRun_progress, fun _ _ => rfl⟩

/-- The state of a command at work with every pixel written holds the command's result, and so does its completion. -/
theorem State.Working.result {P : Params} {l : Latch} {m : Memory} {s : State} (h : s.Working P l m)
    (hrun : s.engine.phase = .run) (hdef : l.WellDefined) (hall : s.engine.AllWritten) :
    (∀ p ∈ l.pixels, Memory.readWord s.atMotion.finishBlit.mem (l.dstAt p.1 p.2) =
      pixelFunction P.alpha l (Memory.readWord m (l.srcAt p.1 p.2))) ∧
    ∀ b : Word, l.inDst b = false → Memory.read s.atMotion.finishBlit.mem b.toNat = Memory.read m b.toNat := by
  have hdefined : s.engine.Defined := ⟨by rwa [h.latch], h.untouched⟩
  obtain ⟨hfinal, -⟩ := h.progress hrun hdefined
  rw [State.finishBlit_mem_of_defined (s.atMotion_defined_iff.mpr hdefined), State.atMotion_mem]
  refine ⟨fun p hp => ?_, h.outside⟩
  rw [← h.latch] at hp
  have hword := hfinal p hp (hall.written hp)
  rwa [State.finalWord, h.params, h.latch, h.mem0] at hword

/-- Settles O57: the accepted command starts (R226), comes to its completion step, and holds its result there. -/
theorem blitTransformsEveryPixel : Obligations.BlitTransformsEveryPixel := by
  unfold Obligations.BlitTransformsEveryPixel
  intro i s hi hinv hfree hhost hwidth hheight hdef huse
  have hpixels : ¬ (s.latchFor i).Empty := by rw [State.latchFor_empty_iff]; omega
  have hexec := exec_blit_of_nonempty hi hfree hpixels
  have hinv' := exec_accepted_keeps_inv hinv hfree hexec
  obtain ⟨n, u, -, hfinish, hrun, hall, hwork⟩ := exists_run_to_finish
    (P := State.Working s.params (s.latchFor i) s.mem) (fun _ _ => engineStep_keeps_working) _ hinv' rfl hhost huse
    (s.accept i).beginRun_working (Nat.le_add_left _ _)
  obtain ⟨hwords, hbytes⟩ := hwork.result hrun hdef hall
  refine ⟨_, n, _, hexec, hfinish, by simp, by simp, by simp, fun r c hr hc => ?_, hbytes⟩
  have hp : (r, c) ∈ (s.latchFor i).pixels := Latch.mem_pixels.mpr ⟨Int.lt_toNat.mpr hr, Int.lt_toNat.mpr hc⟩
  rw [hwords (r, c) hp]
  obtain rfl | rfl := hi <;> rfl

end Sys2Proof.Machine

/-! ## Free values in the destination

A draw over DF writes each writable destination word with its own free value, and no two of them share a byte (R63), so
each holds its value afterwards. Reset draws over a running command (R301); the completion step draws where the command is
not well-defined (R69) or a host write has marked it (R74(a)), and nothing but the command's end takes the mark away. -/

namespace Sys2Proof.Machine

theorem State.readWord_drawDst {s : State} {w : Word} (hinv : s.Inv) (hw : w ∈ s.engine.latch.dstFootprint)
    (hstop : s.params.engineWriteStop w = none) :
    Memory.readWord s.drawDst.mem w = Config.anyValue s.draws w := by
  rw [State.drawDst_mem]
  refine Memory.readWord_drawWords _ hinv.wf_mem (fun v hv => ?_) (List.mem_filter.mpr ⟨hw, by simp [hstop]⟩)
  exact Latch.dstFootprint_aligned hinv.alignedOperands v (List.mem_of_mem_filter hv)

/-- Settles O16: the next state is `resetBlock`, whose memory in RUN is that of the draw. -/
theorem resetDuringRunDrawsDestination : Obligations.ResetDuringRunDrawsDestination := by
  unfold Obligations.ResetDuringRunDrawsDestination
  intro s hinv hrun
  refine ⟨s.resetBlock, rfl, fun w hw hstop => ?_, fun b hb => State.read_resetBlock_outside hb, rfl, rfl, rfl⟩
  rw [State.resetBlock_mem_of_run hrun, State.readWord_drawDst hinv hw hstop]

/-! The completion step of a command without the result of R229. -/

theorem State.finishBlit_of_not_defined {s : State} (h : ¬ s.engine.Defined) : s.finishBlit = s.drawDst.endRun := by
  obtain ⟨hdef, -⟩ | ⟨-, he⟩ := s.finishBlit_cases
  · exact absurd hdef h
  · exact he

/-- The draw at the completion step is that of the state before it. -/
theorem State.drawDst_atMotion_mem (s : State) : s.atMotion.drawDst.mem = s.drawDst.mem := by
  rw [State.drawDst_mem, State.drawDst_mem, s.atMotion_sameCommand.latch]
  rfl

theorem State.atMotion_finishBlit_mem_of_not_defined {s : State} (h : ¬ s.engine.Defined) :
    s.atMotion.finishBlit.mem = s.drawDst.mem := by
  rw [State.finishBlit_of_not_defined (mt s.atMotion_defined_iff.mp h), State.endRun_mem, State.drawDst_atMotion_mem]

/-- The completion step of such a command leaves free values in DF, and the other bytes as they are. -/
theorem finish_of_not_defined {s : State} (hinv : s.Inv) (hdef : ¬ s.engine.Defined)
    (hstop : ∀ w ∈ s.engine.latch.dstFootprint, s.params.engineWriteStop w = none) :
    (∀ w ∈ s.engine.latch.dstFootprint,
      Memory.readWord s.atMotion.finishBlit.mem w = Config.anyValue s.draws w) ∧
    ∀ b : Word, s.engine.latch.inDst b = false →
      Memory.read s.atMotion.finishBlit.mem b.toNat = Memory.read s.mem b.toNat := by
  rw [State.atMotion_finishBlit_mem_of_not_defined hdef]
  exact ⟨fun w hw => State.readWord_drawDst hinv hw (hstop w hw), fun b hb => State.read_drawDst_outside hb⟩

/-- Settles O43: a command that is not well-defined has no defined result, so its completion draws. -/
theorem notWellDefinedDrawsDestination : Obligations.NotWellDefinedDrawsDestination := by
  unfold Obligations.NotWellDefinedDrawsDestination
  intro s hinv _ hdef hstop hfinish
  obtain ⟨hwords, hbytes⟩ := finish_of_not_defined hinv (fun hdefined => hdef hdefined.1) hstop
  exact ⟨_, engineStep_of_finish hfinish, by simp, by simp, by simp, hwords, hbytes⟩

/-! The mark of a host write to the footprints. -/

/-- A host write to memory that answers a next state has stored its data (R72, R80). -/
theorem hostStep_write_to_memory {s t : State} {a : Word} {size : AccessSize} {d : BusData}
    (hw : touchesWindow s.params a size = false) (h : hostStep (.write a size d) s = .next t) :
    t = s.hostStore a size d := by
  obtain ⟨hdef, -⟩ | ⟨-, rfl⟩ := hostWrite_cases h
  · rw [touchesWindow_of_defined hdef] at hw
    cases hw
  · rfl

theorem State.disturbs_of_mem {s : State} {a b : Word} {size : AccessSize} (hrun : s.engine.phase = .run)
    (hb : b ∈ span a size.bytes) (htouch : s.engine.latch.inSrc b = true ∨ s.engine.latch.inDst b = true) :
    s.disturbs a size = true := by
  rw [← Bool.not_eq_false, State.disturbs_eq_false_iff hrun]
  intro hnone
  obtain ⟨hsrc, hdst⟩ := hnone b hb
  simp [hsrc, hdst] at htouch

/-- While the command runs no step takes its mark away or changes its `L`. -/
theorem step_keeps_mark {s t : State} (hinv : s.Inv) (hrun : s.engine.phase = .run)
    (hmark : s.engine.interfered = true) (h : step s = .next t) (hrun' : t.engine.phase = .run) :
    t.engine.interfered = true ∧ t.engine.latch = s.engine.latch := by
  obtain ⟨hidle, -, -⟩ | ⟨-, ts, heng⟩ | ⟨op, rest, ts, -, hhost⟩ := step_cases h
  · rw [hrun] at hidle
    cases hidle
  · have hlatch := engineStep_latch heng
    exact ⟨(engineStep_interfered heng).trans hmark, hlatch⟩
  · have hinv' : State.Inv { s with turns := ts, host := rest } := hinv
    obtain hsame | ⟨a, size, d, -, rfl⟩ | hidle | ⟨hfree, -⟩ := hostStep_run_cases hinv' hhost
    · rw [hsame.engine]
      exact ⟨hmark, rfl⟩
    · exact ⟨by simp [hmark], rfl⟩
    · rw [hrun'] at hidle
      cases hidle
    · exact absurd hrun (hinv.not_run hfree)

/-- Settles O44: the store sets the mark, `step_keeps_mark` keeps it, and the completion of a marked command draws. -/
theorem hostWriteToFootprintDrawsDestination : Obligations.HostWriteToFootprintDrawsDestination := by
  unfold Obligations.HostWriteToFootprintDrawsDestination
  refine ⟨fun s t a size d hrun htouch hw h => ?_, fun s t => step_keeps_mark, fun s hinv hrun hmark hstop hfinish => ?_⟩
  · obtain ⟨b, hb, hb'⟩ := htouch
    obtain rfl := hostStep_write_to_memory hw h
    exact ⟨by simp [State.disturbs_of_mem hrun hb hb'], hrun, rfl⟩
  · have hdef : ¬ s.engine.Defined := by
      rintro ⟨-, huntouched⟩
      rw [hmark] at huntouched
      cases huntouched
    obtain ⟨hwords, hbytes⟩ := finish_of_not_defined hinv hdef hstop
    exact ⟨_, engineStep_of_finish hfinish, by simp, hwords, hbytes⟩

end Sys2Proof.Machine

/-! ## Accesses that are made, and accesses that stop

An access of the engine is stopped by the register window (R61) or by the first of its bytes that is not memory of the
kind it needs (R64, R67); where nothing stops it, it is made in that step. -/

namespace Sys2Proof.Machine

theorem engineStep_of_read {s : State} {a : Word} (h : (s.engine.next s.params.alpha).2 = .read a)
    (hstop : s.params.engineReadStop a = none) : engineStep s = .next (s.atMotion.engineRead a) := by
  simp only [engineStep, h, State.perform, hstop]
  rfl

theorem engineStep_of_read_stopped {s : State} {a : Word} {f : Fault} (h : (s.engine.next s.params.alpha).2 = .read a)
    (hstop : s.params.engineReadStop a = some f) : engineStep s = .fault f := by
  simp only [engineStep, h, State.perform, hstop]

theorem engineStep_of_write {s : State} {a v : Word} (h : (s.engine.next s.params.alpha).2 = .write a v)
    (hstop : s.params.engineWriteStop a = none) : engineStep s = .next (s.atMotion.engineWrite a v) := by
  simp only [engineStep, h, State.perform, hstop]
  rfl

theorem engineStep_of_write_stopped {s : State} {a v : Word} {f : Fault}
    (h : (s.engine.next s.params.alpha).2 = .write a v) (hstop : s.params.engineWriteStop a = some f) :
    engineStep s = .fault f := by
  simp only [engineStep, h, State.perform, hstop]

/-! What stops a read. -/

theorem engineReadStop_of_window {P : Params} {a : Word} (h : ∃ b ∈ span a 4, P.inWindow b = true) :
    P.engineReadStop a = some (.engineInWindow a) := by
  rw [Params.engineReadStop, if_pos (List.any_eq_true.mpr h)]

theorem engineReadStop_of_unreadable {P : Params} {a : Word}
    (h : ∃ b ∈ span a 4, P.kindAt b ≠ none ∧ P.kindAt b ≠ some .readOnly) : ∃ f, P.engineReadStop a = some f := by
  obtain ⟨b, hb, hplain, hreadOnly⟩ := h
  unfold Params.engineReadStop
  split_ifs
  · exact ⟨_, rfl⟩
  · refine Option.isSome_iff_exists.mp (List.findSome?_isSome_iff.mpr ⟨b, hb, ?_⟩)
    split <;> simp_all

theorem engineReadStop_of_readable {P : Params} {a : Word}
    (h : ∀ b ∈ span a 4, P.inWindow b = false ∧ (P.kindAt b = none ∨ P.kindAt b = some .readOnly)) :
    P.engineReadStop a = none := by
  have hwindow : ¬ (span a 4).any P.inWindow = true := by
    rw [List.any_eq_true]
    rintro ⟨b, hb, hin⟩
    rw [(h b hb).1] at hin
    cases hin
  rw [Params.engineReadStop, if_neg hwindow, List.findSome?_eq_none_iff]
  intro b hb
  obtain ⟨-, hkind | hkind⟩ := h b hb <;> rw [hkind]

/-! What stops a write. -/

theorem engineWriteStop_of_window {P : Params} {a : Word} (h : ∃ b ∈ span a 4, P.inWindow b = true) :
    P.engineWriteStop a = some (.engineInWindow a) := by
  rw [Params.engineWriteStop, if_pos (List.any_eq_true.mpr h)]

theorem engineWriteStop_of_unwritable {P : Params} {a : Word}
    (h : ∃ b ∈ span a 4, P.kindAt b ≠ none ∧ P.kindAt b ≠ some .writeOnly) : ∃ f, P.engineWriteStop a = some f := by
  obtain ⟨b, hb, hplain, hwriteOnly⟩ := h
  unfold Params.engineWriteStop
  split_ifs
  · exact ⟨_, rfl⟩
  · refine Option.isSome_iff_exists.mp (List.findSome?_isSome_iff.mpr ⟨b, hb, ?_⟩)
    split <;> simp_all

theorem engineWriteStop_of_writable {P : Params} {a : Word}
    (h : ∀ b ∈ span a 4, P.inWindow b = false ∧ (P.kindAt b = none ∨ P.kindAt b = some .writeOnly)) :
    P.engineWriteStop a = none := by
  have hwindow : ¬ (span a 4).any P.inWindow = true := by
    rw [List.any_eq_true]
    rintro ⟨b, hb, hin⟩
    rw [(h b hb).1] at hin
    cases hin
  rw [Params.engineWriteStop, if_neg hwindow, List.findSome?_eq_none_iff]
  intro b hb
  obtain ⟨-, hkind | hkind⟩ := h b hb <;> rw [hkind]

/-- Settles O51: what stops an access, and the step of one that is stopped or made. -/
theorem engineFaultsOutsideMemory : Obligations.EngineFaultsOutsideMemory := by
  unfold Obligations.EngineFaultsOutsideMemory
  refine fun s => ⟨fun a h => ⟨fun hwindow => ?_, fun hkind => ?_, fun hplain => ?_⟩,
    fun a v h => ⟨fun hwindow => ?_, fun hkind => ?_, fun hplain => ?_⟩⟩
  · exact engineStep_of_read_stopped h (engineReadStop_of_window hwindow)
  · obtain ⟨f, hf⟩ := engineReadStop_of_unreadable hkind
    exact ⟨f, engineStep_of_read_stopped h hf⟩
  · exact ⟨_, engineStep_of_read h (engineReadStop_of_readable hplain)⟩
  · exact engineStep_of_write_stopped h (engineWriteStop_of_window hwindow)
  · obtain ⟨f, hf⟩ := engineWriteStop_of_unwritable hkind
    exact ⟨f, engineStep_of_write_stopped h hf⟩
  · exact ⟨_, engineStep_of_write h (engineWriteStop_of_writable hplain)⟩

end Sys2Proof.Machine

/-! ## Probe pairs

A pair begins where the head of the outer loop reads a first pixel with a second one left (R195). Its four accesses are
then fixed by the place alone, and after the second write the engine holds `accu` and `diff` and dispatches on them (R192,
R196). -/

namespace Sys2Proof.Machine

/-! The dispatch (R196). -/

theorem accuOf_eq_zero_iff {A : AlphaPos} {p0 p1 : Word} :
    accuOf A p0 p1 = 0#32 ↔ A.alpha p0 = 255#8 ∧ A.alpha p1 = 255#8 := by
  have h0 := (A.alpha p0).isLt
  have h1 := (A.alpha p1).isLt
  rw [accuOf, ← BitVec.toNat_inj, ← BitVec.toNat_inj, ← BitVec.toNat_inj, BitVec.toNat_ofInt]
  simp only [BitVec.toNat_ofNat]
  omega

theorem diffOf_eq_zero_iff {p0 p1 : Word} : diffOf p0 p1 = 0#32 ↔ p0 = p1 :=
  BitVec.xor_eq_zero_iff

theorem dispatchRun_eq_solidRun_iff {accu diff : Word} : dispatchRun accu diff = .solidRun ↔ accu = 0#32 := by
  unfold dispatchRun
  split_ifs <;> simp [*]

theorem dispatchRun_eq_constantRun_iff {accu diff : Word} :
    dispatchRun accu diff = .constantRun ↔ accu ≠ 0#32 ∧ diff = 0#32 := by
  unfold dispatchRun
  split_ifs <;> simp [*]

theorem dispatchRun_eq_probe_iff {accu diff : Word} :
    dispatchRun accu diff = .probe ↔ accu ≠ 0#32 ∧ diff ≠ 0#32 := by
  unfold dispatchRun
  split_ifs <;> simp [*]

/-- The heads of the loops change neither `accu` nor `diff`. -/
theorem Engine.probe_accu_diff (e : Engine) : e.probe.1.accu = e.accu ∧ e.probe.1.diff = e.diff := by
  unfold probe probePixel readSrc
  split_ifs <;> exact ⟨rfl, rfl⟩

theorem Engine.runLoop_accu_diff (e : Engine) : e.runLoop.1.accu = e.accu ∧ e.runLoop.1.diff = e.diff := by
  obtain ⟨-, hloop⟩ | ⟨-, hloop⟩ := e.runLoop_cases <;> rw [hloop]
  · exact ⟨rfl, rfl⟩
  · exact e.probe_accu_diff

/-- The motion after a pair with pixels left in the row: pixel `i + 2` is read, in the state dispatched to. -/
theorem Engine.next_putQ1_withinRow (A : AlphaPos) {e : Engine} (hpt : e.point = .putQ1)
    (hi : e.i + 2 < e.latch.width.toNat) :
    (e.next A).1.i = e.i + 2 ∧ (e.next A).1.rd = dispatchRun (accuOf A e.p0 e.p1) (diffOf e.p0 e.p1) ∧
      (e.next A).2 = .read (e.latch.srcAt e.r (e.i + 2)) := by
  have hi' : (e.pairDone A).i < (e.pairDone A).latch.width.toNat := hi
  rw [next_putQ1 A hpt]
  split_ifs with hrd
  · rw [probe_withinRow hi']
    exact ⟨rfl, hrd.symm, rfl⟩
  · rw [runLoop_withinRow hi']
    exact ⟨rfl, rfl, rfl⟩

theorem Engine.next_putQ1_accu_diff (A : AlphaPos) {e : Engine} (hpt : e.point = .putQ1) :
    (e.next A).1.accu = accuOf A e.p0 e.p1 ∧ (e.next A).1.diff = diffOf e.p0 e.p1 := by
  rw [next_putQ1 A hpt]
  split_ifs
  · exact (e.pairDone A).probe_accu_diff
  · exact (e.pairDone A).runLoop_accu_diff

/-- Settles O47: the tests of the dispatch in terms of the pixels, and the motion after a pair. -/
theorem runDispatchAfterPair : Obligations.RunDispatchAfterPair := by
  unfold Obligations.RunDispatchAfterPair
  refine ⟨fun A p0 p1 => ⟨accuOf_eq_zero_iff, diffOf_eq_zero_iff, ?_, ?_, fun hnonzero => ?_⟩, fun A e hpt => ?_⟩
  · rw [dispatchRun_eq_solidRun_iff, accuOf_eq_zero_iff]
  · rw [dispatchRun_eq_constantRun_iff, Ne, accuOf_eq_zero_iff, diffOf_eq_zero_iff]
  · rw [dispatchRun_eq_probe_iff]
    constructor <;> rintro hzero <;> simp [hzero] at hnonzero
  · obtain ⟨haccu, hdiff⟩ := Engine.next_putQ1_accu_diff A hpt
    exact ⟨haccu, hdiff, Engine.next_putQ1_withinRow A hpt⟩

/-! The four accesses of a pair. -/

/-- The motion `mv`, with the engine that makes it, is the first read of a pair of the command `l`. -/
structure Engine.BeginsPair (l : Latch) (mv : Engine × Motion) : Prop where
  latch : mv.1.latch = l
  motion : mv.2 = .read (l.srcAt mv.1.r mv.1.i)
  pair : mv.1.i + 2 ≤ l.width.toNat

/-- Only the head of the outer loop comes to `gotP0`, with two pixels of the row left. -/
theorem Engine.probe_beginsPair {e : Engine} (hpt : e.point ≠ .gotP0) (h : e.probe.1.point = .gotP0) :
    BeginsPair e.latch e.probe := by
  have hpixel (e : Engine) (h : e.probePixel.1.point = .gotP0) : BeginsPair e.latch e.probePixel := by
    simp only [probePixel, readSrc] at h
    split_ifs at h with htwo
    simp only [remaining] at htwo
    exact ⟨rfl, rfl, by simp only [probePixel, readSrc]; omega⟩
  unfold probe at h ⊢
  split_ifs at h ⊢
  · exact hpixel e h
  · exact hpixel { e with r := e.r + 1, i := 0 } h
  · exact absurd h hpt

theorem Engine.runLoop_beginsPair {e : Engine} (hpt : e.point ≠ .gotP0) (h : e.runLoop.1.point = .gotP0) :
    BeginsPair e.latch e.runLoop := by
  obtain ⟨-, hloop⟩ | ⟨-, hloop⟩ := e.runLoop_cases
  · simp [hloop] at h
  · rw [hloop] at h ⊢
    exact probe_beginsPair hpt h

/-- However the engine comes to `gotP0`, it begins a pair there. -/
theorem Engine.next_beginsPair {A : AlphaPos} {e : Engine} (h : (e.next A).1.point = .gotP0) :
    BeginsPair e.latch (e.next A) := by
  cases hpt : e.point
  case rowStart => rw [next_rowStart A hpt] at h ⊢; exact probe_beginsPair (by simp [hpt]) h
  case gotP0 => rw [next_gotP0 A hpt] at h; cases h
  case gotP1 => rw [next_gotP1 A hpt] at h; cases h
  case putQ0 => rw [next_putQ0 A hpt] at h; cases h
  case putQ1 =>
    have hpt' : (e.pairDone A).point ≠ .gotP0 := by simp [pairDone, hpt]
    rw [next_putQ1 A hpt] at h ⊢
    split_ifs at h ⊢
    · exact probe_beginsPair hpt' h
    · exact runLoop_beginsPair hpt' h
  case gotTail => rw [next_gotTail A hpt] at h; cases h
  case putTail =>
    rw [next_putTail A hpt] at h ⊢
    exact probe_beginsPair (e := { e with i := e.i + 1 }) (by simp [hpt]) h
  case gotT =>
    rw [next_gotT A hpt] at h ⊢
    split_ifs at h ⊢
    exact probe_beginsPair (by simp [hpt]) h
  case putT =>
    rw [next_putT A hpt] at h ⊢
    exact runLoop_beginsPair (e := { e with i := e.i + 1 }) (by simp [hpt]) h

/-- With the host doing nothing, a step whose motion is a read that nothing stops. -/
theorem step_of_read {s : State} {a : Word} (hrun : s.engine.phase = .run) (hhost : s.host = [])
    (h : (s.engine.next s.params.alpha).2 = .read a) (hstop : s.params.engineReadStop a = none) :
    step s = .next (s.atMotion.engineRead a) := by
  rw [step_of_run_no_host hrun hhost, engineStep_of_read h hstop]

/-- With the host doing nothing, a step whose motion is a write that nothing stops. -/
theorem step_of_write {s : State} {a v : Word} (hrun : s.engine.phase = .run) (hhost : s.host = [])
    (h : (s.engine.next s.params.alpha).2 = .write a v) (hstop : s.params.engineWriteStop a = none) :
    step s = .next (s.atMotion.engineWrite a v) := by
  rw [step_of_run_no_host hrun hhost, engineStep_of_write h hstop]

/-- The second read of a pair. -/
theorem step_of_gotP0 {s : State} (hrun : s.engine.phase = .run) (hhost : s.host = []) (hpt : s.engine.point = .gotP0)
    (hstop : s.params.engineReadStop (s.engine.latch.srcAt s.engine.r (s.engine.i + 1)) = none) :
    step s = .next { s with
      engine := { s.engine with
        point := .gotP1, p1 := Memory.readWord s.mem (s.engine.latch.srcAt s.engine.r (s.engine.i + 1)) }
      trace := .read (s.engine.latch.srcAt s.engine.r (s.engine.i + 1))
        (Memory.readWord s.mem (s.engine.latch.srcAt s.engine.r (s.engine.i + 1))) :: s.trace } := by
  have hnext := Engine.next_gotP0 s.params.alpha hpt
  rw [step_of_read hrun hhost (by rw [hnext]) hstop]
  simp only [State.atMotion, hnext, State.engineRead, Engine.receive]

/-- The first write of a pair. -/
theorem step_of_gotP1 {s : State} (hrun : s.engine.phase = .run) (hhost : s.host = []) (hpt : s.engine.point = .gotP1)
    (hstop : s.params.engineWriteStop (s.engine.latch.dstAt s.engine.r s.engine.i) = none) :
    step s = .next { s with
      engine := { s.engine with
        q0 := pixelFunction s.params.alpha s.engine.latch s.engine.p0
        q1 := pixelFunction s.params.alpha s.engine.latch s.engine.p1
        point := .putQ0 }
      mem := Memory.writeWord s.mem (s.engine.latch.dstAt s.engine.r s.engine.i)
        (pixelFunction s.params.alpha s.engine.latch s.engine.p0)
      trace := .write (s.engine.latch.dstAt s.engine.r s.engine.i)
        (pixelFunction s.params.alpha s.engine.latch s.engine.p0) :: s.trace } := by
  have hnext := Engine.next_gotP1 s.params.alpha hpt
  rw [step_of_write hrun hhost (by rw [hnext]) hstop]
  simp only [State.atMotion, hnext, State.engineWrite]

/-- The second write of a pair. -/
theorem step_of_putQ0 {s : State} (hrun : s.engine.phase = .run) (hhost : s.host = []) (hpt : s.engine.point = .putQ0)
    (hstop : s.params.engineWriteStop (s.engine.latch.dstAt s.engine.r (s.engine.i + 1)) = none) :
    step s = .next { s with
      engine := { s.engine with point := .putQ1 }
      mem := Memory.writeWord s.mem (s.engine.latch.dstAt s.engine.r (s.engine.i + 1)) s.engine.q1
      trace := .write (s.engine.latch.dstAt s.engine.r (s.engine.i + 1)) s.engine.q1 :: s.trace } := by
  have hnext := Engine.next_putQ0 s.params.alpha hpt
  rw [step_of_write hrun hhost (by rw [hnext]) hstop]
  simp only [State.atMotion, hnext, State.engineWrite]

/-- The first read of a pair, wherever the engine comes from. -/
theorem step_of_beginsPair {s : State} {e : Engine} (hrun : s.engine.phase = .run) (hhost : s.host = [])
    (he : e = (s.engine.next s.params.alpha).1) (hpt : e.point = .gotP0)
    (hstop : s.params.engineReadStop (e.latch.srcAt e.r e.i) = none)
    (hmotion : (s.engine.next s.params.alpha).2 = .read (e.latch.srcAt e.r e.i)) :
    step s = .next { s with
      engine := { e with p0 := Memory.readWord s.mem (e.latch.srcAt e.r e.i) }
      trace := .read (e.latch.srcAt e.r e.i) (Memory.readWord s.mem (e.latch.srcAt e.r e.i)) :: s.trace } := by
  rw [step_of_read hrun hhost hmotion hstop]
  simp only [State.atMotion, State.engineRead, ← he, Engine.receive, hpt]

/-- What the rest of a pair leaves, from the first read on: pixel `i + 1` read, and F of both pixels written. -/
def State.pairWritten (s : State) : State :=
  let p1 := Memory.readWord s.mem (s.engine.latch.srcAt s.engine.r (s.engine.i + 1))
  let q0 := pixelFunction s.params.alpha s.engine.latch s.engine.p0
  let q1 := pixelFunction s.params.alpha s.engine.latch p1
  let d0 := s.engine.latch.dstAt s.engine.r s.engine.i
  let d1 := s.engine.latch.dstAt s.engine.r (s.engine.i + 1)
  { s with
    engine := { s.engine with point := .putQ1, p1 := p1, q0 := q0, q1 := q1 }
    mem := Memory.writeWord (Memory.writeWord s.mem d0 q0) d1 q1
    trace := [.write d1 q1, .write d0 q0, .read (s.engine.latch.srcAt s.engine.r (s.engine.i + 1)) p1] ++ s.trace }

theorem run_of_gotP0 {s : State} (hrun : s.engine.phase = .run) (hhost : s.host = []) (hpt : s.engine.point = .gotP0)
    (hread : s.params.engineReadStop (s.engine.latch.srcAt s.engine.r (s.engine.i + 1)) = none)
    (hwrite0 : s.params.engineWriteStop (s.engine.latch.dstAt s.engine.r s.engine.i) = none)
    (hwrite1 : s.params.engineWriteStop (s.engine.latch.dstAt s.engine.r (s.engine.i + 1)) = none) :
    Host.Core.run core 3 s = .next s.pairWritten := by
  refine (run_succ_of_step (M := core) (step_of_gotP0 hrun hhost hpt hread)).trans ?_
  refine (run_succ_of_step (M := core)
    (step_of_gotP1 (by exact hrun) (by exact hhost) (by rfl) (by exact hwrite0))).trans ?_
  refine (run_succ_of_step (M := core)
    (step_of_putQ0 (by exact hrun) (by exact hhost) (by rfl) (by exact hwrite1))).trans ?_
  rfl

/-- Settles O49: the first read by `step_of_beginsPair`, the other three accesses by `run_of_gotP0`. -/
theorem probePairReadsTwoWritesTwo : Obligations.ProbePairReadsTwoWritesTwo := by
  unfold Obligations.ProbePairReadsTwoWritesTwo
  intro s e p0 p1 hrun hhost he hpt hread0 hread1 hwrite0 hwrite1 hp0 hp1
  have hrun' : e.phase = .run := by rw [he, (s.engine.next_sameCommand s.params.alpha).phase, hrun]
  obtain ⟨hlatch, hmotion, hpair⟩ := Engine.next_beginsPair (A := s.params.alpha) (e := s.engine) (he ▸ hpt)
  rw [← he] at hlatch hmotion hpair
  rw [← hlatch] at hmotion hpair
  subst hp0 hp1
  refine ⟨hmotion, hlatch, hpair, _,
    (run_succ_of_step (M := core) (step_of_beginsPair hrun hhost he hpt hread0 hmotion)).trans
      (run_of_gotP0 hrun' hhost hpt hread1 hwrite0 hwrite1), rfl, rfl, hrun'⟩

end Sys2Proof.Machine

/-! ## Well-defined commands

`D` is exact arithmetic reduced modulo 2^32 (R65), so two pixels share a destination word when the exact addresses differ
by a multiple of 2^32. Within one row of at most 2^30 pixels they differ by less; and rows at least their width apart that
do not wrap keep any two pixels closer than that, too (R68). -/

namespace Sys2Proof.Machine

/-- The spec's two conditions over rows and pixels (R68). -/
theorem Latch.wellDefined_iff {l : Latch} :
    l.WellDefined ↔
      ∀ r i r' i' : Nat, (r : Int) < l.height → (i : Int) < l.width → (r' : Int) < l.height → (i' : Int) < l.width →
        (l.dstAt r i = l.dstAt r' i' → r = r' ∧ i = i') ∧ (l.dstAt r i = l.srcAt r' i' → r = r' ∧ i = i') := by
  simp only [Latch.WellDefined, Latch.DstInjective, Latch.DstApartFromOtherSrc, Prod.forall, Latch.mem_pixels,
    Int.lt_toNat, Prod.mk.injEq]
  constructor
  · rintro ⟨hinj, hapart⟩ r i r' i' hr hi hr' hi'
    exact ⟨hinj r i ⟨hr, hi⟩ r' i' ⟨hr', hi'⟩, hapart r i ⟨hr, hi⟩ r' i' ⟨hr', hi'⟩⟩
  · intro h
    exact ⟨fun r i hp r' i' hq => (h r i r' i' hp.1 hp.2 hq.1 hq.2).1,
      fun r i hp r' i' hq => (h r i r' i' hp.1 hp.2 hq.1 hq.2).2⟩

/-- Source in place of destination: `S` is `D`, so the two conditions are one. -/
theorem Latch.wellDefined_of_same_addresses {l : Latch} (hinj : l.DstInjective) (haddr : l.src = l.dst)
    (hstride : l.sstride = l.dstride) : l.WellDefined := by
  refine ⟨hinj, fun p hp q hq h => hinj p hp q hq ?_⟩
  rwa [Latch.srcAt, haddr, hstride] at h

/-- Disjoint footprints: no destination word is a source word at all. -/
theorem Latch.wellDefined_of_disjoint {l : Latch} (hinj : l.DstInjective)
    (hdisjoint : ∀ w ∈ l.srcFootprint, w ∉ l.dstFootprint) : l.WellDefined := by
  refine ⟨hinj, fun p hp q hq h => absurd ?_ (hdisjoint _ (Latch.srcAt_mem_srcFootprint hq))⟩
  rw [← h]
  exact Latch.dstAt_mem_dstFootprint hp

/-- Two exact addresses that are one word address and closer than 2^32 are equal. -/
theorem ofInt_inj_of_close {x y : Int} (h : BitVec.ofInt 32 x = BitVec.ofInt 32 y) (hxy : |x - y| < 2 ^ 32) :
    x = y := by
  have hmod : x % 2 ^ 32 = y % 2 ^ 32 := by
    have hnat := congrArg BitVec.toNat h
    simp only [BitVec.toNat_ofInt] at hnat
    omega
  rw [abs_lt] at hxy
  omega

/-- D is injective where no two pixels are 2^32 bytes apart or more, and rows do not overlap. -/
theorem Latch.dstInjective_of_close {l : Latch}
    (hclose : ∀ p ∈ l.pixels, ∀ q ∈ l.pixels,
      |((p.1 : Int) - q.1) * l.dstride + 4 * ((p.2 : Int) - q.2)| < 2 ^ 32)
    (hapart : ∀ p ∈ l.pixels, ∀ q ∈ l.pixels,
      ((p.1 : Int) - q.1) * l.dstride + 4 * ((p.2 : Int) - q.2) = 0 → p.1 = q.1) : l.DstInjective := by
  intro p hp q hq h
  have hdiff : ((l.dst.toNat : Int) + p.1 * l.dstride + 4 * p.2) - ((l.dst.toNat : Int) + q.1 * l.dstride + 4 * q.2) =
      ((p.1 : Int) - q.1) * l.dstride + 4 * ((p.2 : Int) - q.2) := by ring
  have heq := ofInt_inj_of_close h (by rw [hdiff]; exact hclose p hp q hq)
  have hzero : ((p.1 : Int) - q.1) * l.dstride + 4 * ((p.2 : Int) - q.2) = 0 := by rw [← hdiff, heq, sub_self]
  have hrow := hapart p hp q hq hzero
  rw [hrow, sub_self, zero_mul] at hzero
  exact Prod.ext hrow (by omega)

theorem Latch.dstInjective_of_one_row {l : Latch} (hheight : l.height = 1) (hwidth : 4 * l.width ≤ 2 ^ 32) :
    l.DstInjective := by
  have hrow (p : Nat × Nat) (hp : p ∈ l.pixels) : p.1 = 0 ∧ (p.2 : Int) < l.width := by
    obtain ⟨hr, hi⟩ := Latch.mem_pixels.mp hp
    omega
  refine Latch.dstInjective_of_close (fun p hp q hq => ?_) fun p hp q hq _ => ?_
  · obtain ⟨hp0, hpw⟩ := hrow p hp
    obtain ⟨hq0, hqw⟩ := hrow q hq
    rw [hp0, hq0, sub_self, zero_mul, abs_lt]
    omega
  · rw [(hrow p hp).1, (hrow q hq).1]

/-- Rows apart: between pixels of different rows the stride outweighs the columns. -/
theorem Latch.dstInjective_of_rows_apart {l : Latch} (hwidth : 4 * l.width ≤ |l.dstride|)
    (hheight : l.height * |l.dstride| ≤ 2 ^ 32) : l.DstInjective := by
  have hrows (p : Nat × Nat) (hp : p ∈ l.pixels) (q : Nat × Nat) (hq : q ∈ l.pixels) :
      |(p.1 : Int) - q.1| < l.height ∧ |(p.2 : Int) - q.2| < l.width := by
    obtain ⟨hpr, hpi⟩ := Latch.mem_pixels.mp hp
    obtain ⟨hqr, hqi⟩ := Latch.mem_pixels.mp hq
    constructor <;> exact abs_sub_lt_of_nonneg_of_lt (by omega) (by omega) (by omega) (by omega)
  refine Latch.dstInjective_of_close (fun p hp q hq => ?_) fun p hp q hq hzero => ?_
  · obtain ⟨hr, hi⟩ := hrows p hp q hq
    have hstride : |(p.1 : Int) - q.1| * |l.dstride| ≤ (l.height - 1) * |l.dstride| :=
      mul_le_mul_of_nonneg_right (by omega) (abs_nonneg _)
    calc |((p.1 : Int) - q.1) * l.dstride + 4 * ((p.2 : Int) - q.2)|
        ≤ |(p.1 : Int) - q.1| * |l.dstride| + 4 * |(p.2 : Int) - q.2| := by
          refine (abs_add_le _ _).trans_eq ?_
          rw [abs_mul, abs_mul, abs_of_pos (by decide : (0 : Int) < 4)]
      _ < 2 ^ 32 := by linarith
  · obtain ⟨-, hi⟩ := hrows p hp q hq
    have hcolumns : |(p.1 : Int) - q.1| * |l.dstride| = 4 * |(p.2 : Int) - q.2| := by
      rw [← abs_mul, eq_neg_of_add_eq_zero_left hzero, abs_neg, abs_mul, abs_of_pos (by decide : (0 : Int) < 4)]
    have hlt : |(p.1 : Int) - q.1| * |l.dstride| < 1 * |l.dstride| := by linarith
    have hone := lt_of_mul_lt_mul_right hlt (abs_nonneg _)
    have heq : (p.1 : Int) - q.1 = 0 := Int.abs_lt_one_iff.mp hone
    omega

/-- Settles O42: one lemma for each of the rule's cases. -/
theorem wellDefinedSpecialCases : Obligations.WellDefinedSpecialCases := by
  unfold Obligations.WellDefinedSpecialCases
  exact fun l => ⟨Latch.wellDefined_iff, Latch.wellDefined_of_same_addresses, Latch.wellDefined_of_disjoint,
    Latch.dstInjective_of_one_row, Latch.dstInjective_of_rows_apart⟩

end Sys2Proof.Machine

/-! ## Bytes and words of memory

A word is the sum of its bytes by weight, and byte `k` of a value is its bits `8k + 7 : 8k` (R62). A host's read gathers
its bytes the same way: bit `j` of the value is bit `j mod 8` of byte `j / 8`. -/

namespace Sys2Proof

theorem wordOfBytes_toNat (b0 b1 b2 b3 : Byte) :
    (wordOfBytes b0 b1 b2 b3).toNat = b0.toNat + 2 ^ 8 * b1.toNat + 2 ^ 16 * b2.toNat + 2 ^ 24 * b3.toNat := by
  have h0 := b0.isLt
  have h1 := b1.isLt
  have h2 := b2.isLt
  simp only [wordOfBytes, BitVec.toNat_append]
  rw [← Nat.shiftLeft_add_eq_or_of_lt h2, ← Nat.shiftLeft_add_eq_or_of_lt h1, ← Nat.shiftLeft_add_eq_or_of_lt h0]
  simp only [Nat.shiftLeft_eq]
  ring

theorem byteOfWord_toNat (v : Word) (k : Nat) : (byteOfWord v k).toNat = v.toNat / 2 ^ (8 * k) % 2 ^ 8 := by
  rw [byteOfWord, BitVec.extractLsb'_toNat, Nat.shiftRight_eq_div_pow]

theorem getLsbD_byteOfWord (v : Word) (k : Nat) {i : Nat} (hi : i < 8) :
    (byteOfWord v k).getLsbD i = v.getLsbD (8 * k + i) := by
  simp [byteOfWord, hi]

theorem add_ofNat_toNat (a : Word) (k : Nat) : (a + BitVec.ofNat 32 k).toNat = (a.toNat + k) % 2 ^ 32 := by
  simp

theorem AccessSize.bytes_le (size : AccessSize) : size.bytes ≤ 8 := by
  cases size <;> decide

namespace Machine

theorem Memory.readWord_toNat (m : Memory) (a : Word) :
    (Memory.readWord m a).toNat =
      (Memory.read m a.toNat).toNat + 2 ^ 8 * (Memory.read m ((a.toNat + 1) % 2 ^ 32)).toNat +
        2 ^ 16 * (Memory.read m ((a.toNat + 2) % 2 ^ 32)).toNat +
        2 ^ 24 * (Memory.read m ((a.toNat + 3) % 2 ^ 32)).toNat := by
  rw [Memory.readWord, wordOfBytes_toNat, add_ofNat_toNat a 1, add_ofNat_toNat a 2, add_ofNat_toNat a 3]

/-- Byte `k` of a written word (R62). -/
theorem Memory.read_writeWord_byte {m : Memory} (h : Memory.wf m) (a v : Word) {k : Nat} (hk : k < 4) :
    Memory.read (Memory.writeWord m a v) ((a.toNat + k) % 2 ^ 32) = byteOfWord v k := by
  obtain ⟨h0, h1, h2, h3⟩ := Memory.read_writeWord_bytes a v h
  rw [← add_ofNat_toNat]
  interval_cases k
  · rwa [BitVec.add_zero]
  · exact h1
  · exact h2
  · exact h3

/-- A word write leaves every other address alone, in the address space or not. -/
theorem Memory.read_writeWord_other (m : Memory) (a v : Word) {b : Nat}
    (h : ∀ k < 4, b ≠ (a.toNat + k) % 2 ^ 32) : Memory.read (Memory.writeWord m a v) b = Memory.read m b := by
  have h0 : b ≠ a.toNat := by simpa [Nat.mod_eq_of_lt a.isLt] using h 0 (by decide)
  have hne (k : Nat) (hk : k < 4) : b ≠ (a + BitVec.ofNat 32 k).toNat := by
    rw [add_ofNat_toNat]
    exact h k hk
  unfold Memory.writeWord
  rw [Memory.read_write_other _ _ (hne 3 (by decide)), Memory.read_write_other _ _ (hne 2 (by decide)),
    Memory.read_write_other _ _ (hne 1 (by decide)), Memory.read_write_other _ _ h0]

/-- Settles O38: the sum of the bytes, and the laws of a word write. -/
theorem wordAccessesAreLittleEndian : Obligations.WordAccessesAreLittleEndian := by
  unfold Obligations.WordAccessesAreLittleEndian
  intro m a v h
  refine ⟨Memory.readWord_toNat m a, fun k hk => ?_, fun b => Memory.read_writeWord_other m a v,
    Memory.readWord_writeWord_same a v h, Memory.writeWord_wf a v h⟩
  rw [Memory.read_writeWord_byte h a v hk, byteOfWord_toNat]

/-! The value of a host read. -/

/-- Bytes gathered little-endian into the data of the widest access, bit by bit. -/
theorem getLsbD_gather (f : Nat → Byte) (n j : Nat) (hn : n ≤ 8) :
    ((List.range n).foldl (fun v k => v ||| ((f k).setWidth 64 <<< (8 * k))) 0#64).getLsbD j =
      (decide (j < 8 * n) && (f (j / 8)).getLsbD (j % 8)) := by
  induction n with
  | zero => simp
  | succ n ih =>
    rw [List.range_succ, List.foldl_append, List.foldl_cons, List.foldl_nil, BitVec.getLsbD_or, ih (by omega),
      BitVec.getLsbD_shiftLeft, BitVec.getLsbD_setWidth]
    obtain hlow | ⟨hge, hlt⟩ | hhigh : j < 8 * n ∨ (8 * n ≤ j ∧ j < 8 * (n + 1)) ∨ 8 * (n + 1) ≤ j := by omega
    · have hlt : j < 8 * (n + 1) := by omega
      simp [hlow, hlt]
    · have hdiv : j / 8 = n := by omega
      have hmod : j - 8 * n = j % 8 := by omega
      have h64 : j < 64 := by omega
      have h64' : j % 8 < 64 := by omega
      simp [hlt, hge.not_gt, hdiv, hmod, h64, h64']
    · have hn' : ¬ j < 8 * n := by omega
      have hn'' : ¬ j < 8 * (n + 1) := by omega
      have hbyte : 8 ≤ j - 8 * n := by omega
      simp [hn', hn'', BitVec.getLsbD_of_ge _ _ hbyte]

/-- Bit `j` of the value of a host read. -/
theorem State.getLsbD_hostLoad (s : State) (a : Word) (size : AccessSize) (j : Nat) :
    (s.hostLoad a size).getLsbD j =
      (decide (j < 8 * size.bytes) && (s.hostByte (a + BitVec.ofNat 32 (j / 8))).getLsbD (j % 8)) :=
  getLsbD_gather (fun k => s.hostByte (a + BitVec.ofNat 32 k)) size.bytes j (AccessSize.bytes_le size)

/-- A host read of a word whose bytes are those of `v`. -/
theorem State.hostLoad_word {s : State} {a v : Word}
    (h : ∀ k < 4, s.hostByte (a + BitVec.ofNat 32 k) = byteOfWord v k) : s.hostLoad a .word = v.setWidth 64 := by
  refine BitVec.eq_of_getLsbD_eq fun j hj => ?_
  rw [State.getLsbD_hostLoad, BitVec.getLsbD_setWidth]
  by_cases hlt : j < 32
  · rw [h (j / 8) (by omega), getLsbD_byteOfWord v _ (Nat.mod_lt _ (by decide)), Nat.div_add_mod]
    simp [AccessSize.bytes, hlt, hj]
  · have hv : v.getLsbD j = false := BitVec.getLsbD_of_ge _ _ (by omega)
    have hbytes : ¬ j < 8 * AccessSize.word.bytes := hlt
    simp [hbytes, hv]

end Machine

end Sys2Proof

/-! ## Host accesses to memory

During RUN a host read meets the race of R74(b) in a destination word, and memory elsewhere; outside RUN it meets memory
everywhere. Of a well-defined command each byte of DF belongs to one pixel's word, so a word read there is the race's
one value. A read changes nothing of the block, and a write its own bytes. -/

namespace Sys2Proof.Machine

/-- The pixel whose destination word holds a byte is the only one, where D is injective. -/
theorem Latch.dstPixel_eq_some {l : Latch} {p : Nat × Nat} {b : Word} (halign : l.AlignedOperands)
    (hinj : l.DstInjective) (hp : p ∈ l.pixels) (hb : wordHolds (l.dstAt p.1 p.2) b = true) :
    l.dstPixel b = some p := by
  obtain ⟨q, hq⟩ : ∃ q, l.dstPixel b = some q :=
    Option.isSome_iff_exists.mp (List.find?_isSome.mpr ⟨p, hp, hb⟩)
  have hqb : wordHolds (l.dstAt q.1 q.2) b = true := by simpa using List.find?_some hq
  have hqmem := List.mem_of_find?_eq_some hq
  have hsame : l.dstAt q.1 q.2 = l.dstAt p.1 p.2 := by
    by_contra hne
    have hdisj := wordHolds_disjoint (l.dstAt_aligned halign _ _) (l.dstAt_aligned halign _ _) hne hqb
    rw [hb] at hdisj
    cases hdisj
  rw [hq, hinj q hqmem p hp hsame]

theorem wordHolds_add (w : Word) {k : Nat} (hk : k < 4) : wordHolds w (w + BitVec.ofNat 32 k) = true := by
  rw [wordHolds_iff]
  interval_cases k <;> simp

/-- The bytes a host reads in a destination word of a well-defined command in RUN are those of the race's value. -/
theorem State.hostByte_of_dst {s : State} {p : Nat × Nat} (hinv : s.Inv) (hrun : s.engine.phase = .run)
    (hinj : s.engine.latch.DstInjective) (hp : p ∈ s.engine.latch.pixels) {k : Nat} (hk : k < 4) :
    s.hostByte (s.engine.latch.dstAt p.1 p.2 + BitVec.ofNat 32 k) = byteOfWord (s.racingWord p.1 p.2) k := by
  have hpixel : s.racingPixel (s.engine.latch.dstAt p.1 p.2 + BitVec.ofNat 32 k) = some p := by
    rw [State.racingPixel, hrun]
    exact Latch.dstPixel_eq_some hinv.alignedOperands hinj hp (wordHolds_add _ hk)
  have hoffset : (s.engine.latch.dstAt p.1 p.2 + BitVec.ofNat 32 k - s.engine.latch.dstAt p.1 p.2).toNat = k := by
    rw [add_sub_cancel_left, BitVec.toNat_ofNat, Nat.mod_eq_of_lt (by omega)]
  rw [State.hostByte, hpixel]
  simp only [hoffset]

/-- The race of R74(b): the word at acceptance or the final word. -/
theorem State.racingWord_cases {s : State} (hdef : s.engine.Defined) (p : Nat × Nat) :
    s.racingWord p.1 p.2 = Memory.readWord s.engine.mem0 (s.engine.latch.dstAt p.1 p.2) ∨
      s.racingWord p.1 p.2 = s.finalWord p := by
  rw [State.racingWord, if_pos hdef]
  split
  · exact .inr rfl
  · exact .inl rfl

/-- A host read of memory that the platform serves. -/
theorem hostStep_read_memory {s : State} {a : Word} {size : AccessSize} (hw : touchesWindow s.params a size = false)
    (hs : hostStop s.params false a size = none) :
    hostStep (.read a size) s = .next ((s.spendDraw a size).afterRead (s.hostLoad a size)) := by
  simp [hostStep, hostRead, hw, hs]

/-- Spending a draw changes the number of draws only. -/
theorem State.spendDraw_frame (s : State) (a : Word) (size : AccessSize) :
    (s.spendDraw a size).engine = s.engine ∧ (s.spendDraw a size).status = s.status ∧
      (s.spendDraw a size).mem = s.mem ∧ (s.spendDraw a size).pixOut = s.pixOut ∧
      (s.spendDraw a size).reads = s.reads := by
  obtain he | he := s.spendDraw_cases a size <;> rw [he] <;> exact ⟨rfl, rfl, rfl, rfl, rfl⟩

/-- Settles O45: the word read is the race's value, which is one of two. -/
theorem hostReadOfDestinationIsRaceOfTwo : Obligations.HostReadOfDestinationIsRaceOfTwo := by
  unfold Obligations.HostReadOfDestinationIsRaceOfTwo
  intro s p hinv hrun hdef hp hw hs
  obtain ⟨hengine, hstatus, hmem, -, hreads⟩ := s.spendDraw_frame (s.engine.latch.dstAt p.1 p.2) .word
  have hload : s.hostLoad (s.engine.latch.dstAt p.1 p.2) .word = (s.racingWord p.1 p.2).setWidth 64 :=
    State.hostLoad_word fun k hk => State.hostByte_of_dst hinv hrun hdef.1.1 hp hk
  refine ⟨_, _, hostStep_read_memory hw hs, by rw [State.afterRead_reads, hreads], ?_, hmem, hengine, hstatus⟩
  rw [hload]
  exact (State.racingWord_cases hdef p).imp (fun h => by rw [h]) fun h => by rw [h]

/-! Accesses that leave the running command alone. -/

/-- What a host read or poll leaves as it was (R250). -/
theorem hostRead_frame {a : Word} {size : AccessSize} {after : BusData → State → State} {s t : State}
    (hafter : ∀ v u, ∃ hs, after v u = { u with host := hs }) (h : hostRead a size after s = .next t) :
    t.engine = s.engine ∧ t.status = s.status ∧ t.mem = s.mem ∧ t.pixOut = s.pixOut := by
  obtain ⟨-, rfl⟩ | ⟨-, rfl⟩ := hostRead_cases h
  · obtain ⟨hs, he⟩ := hafter _ _
    rw [he]
    exact ⟨rfl, rfl, rfl, rfl⟩
  · obtain ⟨hs, he⟩ := hafter (s.hostLoad a size) ((s.spendDraw a size).afterRead (s.hostLoad a size))
    obtain ⟨hengine, hstatus, hmem, hpix, -⟩ := s.spendDraw_frame a size
    rw [he]
    exact ⟨hengine, hstatus, hmem, hpix⟩

/-- What a POLL does after its read is a matter of the host's list. -/
theorem pollAgain_eq (a mask value : Word) (v : BusData) (s : State) :
    ∃ hs, pollAgain a mask value v s = { s with host := hs } := by
  unfold pollAgain
  split
  · exact ⟨s.host, rfl⟩
  · exact ⟨_, rfl⟩

/-- Outside RUN and outside DF a host sees memory's byte. -/
theorem State.hostByte_of_not_racing {s : State} {b : Word}
    (h : s.engine.phase = .idle ∨ s.engine.latch.inDst b = false) : s.hostByte b = Memory.read s.mem b.toNat := by
  cases hphase : s.engine.phase with
  | idle => exact State.hostByte_of_idle hphase b
  | run =>
    have hdst : s.engine.latch.inDst b = false := h.resolve_left (by simp [hphase])
    have hnone : s.racingPixel b = none := by
      rw [State.racingPixel, hphase]
      refine List.find?_eq_none.mpr fun p hp => ?_
      rw [Latch.inDst_eq_false.mp hdst _ (Latch.dstAt_mem_dstFootprint hp)]
      decide
    rw [State.hostByte, hnone]

/-- A store outside the footprints leaves the engine as it was. -/
theorem State.hostStore_engine_of_outside {s : State} {a : Word} {size : AccessSize} (d : BusData)
    (h : ∀ b ∈ span a size.bytes, s.engine.latch.inSrc b = false ∧ s.engine.latch.inDst b = false) :
    (s.hostStore a size d).engine = s.engine := by
  have hdist : s.disturbs a size = false := by
    cases hphase : s.engine.phase with
    | idle => simp [State.disturbs, hphase]
    | run => exact (State.disturbs_eq_false_iff hphase).mpr h
  simp [hdist]

/-- What a host stores in IDLE it reads back. -/
theorem State.hostLoad_hostStore {s : State} (a : Word) (size : AccessSize) (d : BusData) (hwf : Memory.wf s.mem)
    (hidle : s.engine.phase = .idle) :
    ((s.hostStore a size d).hostLoad a size).toNat = d.toNat % 2 ^ (8 * size.bytes) := by
  have hsize := AccessSize.bytes_le size
  have hload : (s.hostStore a size d).hostLoad a size = (d.setWidth (8 * size.bytes)).setWidth 64 := by
    refine BitVec.eq_of_getLsbD_eq fun j hj => ?_
    rw [State.getLsbD_hostLoad, BitVec.getLsbD_setWidth, BitVec.getLsbD_setWidth]
    by_cases hlt : j < 8 * size.bytes
    · have hidle' : (s.hostStore a size d).engine.phase = .idle := hidle
      rw [State.hostByte_of_idle hidle', State.hostStore_mem,
        Memory.read_writeBytes_inside a d hwf (by omega) (by omega), BitVec.getLsbD_extractLsb']
      have hmod : j % 8 < 8 := Nat.mod_lt _ (by decide)
      simp [hlt, hj, hmod, Nat.div_add_mod]
    · simp [hlt]
  rw [hload, BitVec.toNat_setWidth, BitVec.toNat_setWidth, Nat.mod_eq_of_lt]
  exact (Nat.mod_lt _ (Nat.two_pow_pos _)).trans_le (Nat.pow_le_pow_right (by decide) (by omega))

/-- Settles O46: the frames of reads and stores, and the bytes of a store. -/
theorem harmlessHostAccesses : Obligations.HarmlessHostAccesses := by
  unfold Obligations.HarmlessHostAccesses
  refine ⟨fun s t a size h => hostRead_frame (fun _ u => ⟨u.host, rfl⟩) h,
    fun s t a mask value h => hostRead_frame (pollAgain_eq a mask value) h, fun s t a size d hw hout h => ?_,
    fun s b => State.hostByte_of_not_racing, fun s a size d hwf hw hs => ?_⟩
  · obtain rfl := hostStep_write_to_memory hw h
    exact ⟨State.hostStore_engine_of_outside d hout, rfl, fun b => Memory.read_writeBytes_outside s.mem d⟩
  · have hsize := AccessSize.bytes_le size
    refine ⟨_, hostWrite_to_memory d hw hs, fun k hk => ?_, State.hostLoad_hostStore a size d hwf⟩
    rw [← add_ofNat_toNat, State.hostStore_mem, Memory.read_writeBytes_inside a d hwf hk (by omega),
      BitVec.extractLsb'_toNat, Nat.shiftRight_eq_div_pow]

end Sys2Proof.Machine

/-! ## Register accesses

A register's address lies in the window at the register's offset (R20), so a 32-bit access there is `State.writeReg` or
reads `State.regValue` (R250, R251). Any other access that touches the window is refused (R21), and the reserved offsets
hold no register. -/

namespace Sys2Proof.Machine

/-! Reads. -/

theorem State.readOffset_offset (s : State) (r : Reg) : s.readOffset r.offset = s.regValue r := by
  rw [State.readOffset, atOffset_offset]

/-- A host read of a register returns its value, and the host does `after` with it. -/
theorem hostRead_regAddr (s : State) (r : Reg) (after : BusData → State → State) :
    hostRead (s.params.regAddr r) .word after s =
      .next (after ((s.regValue r).setWidth 64) (s.afterRead ((s.regValue r).setWidth 64))) := by
  have hdef := definedWindowAccess_regAddr s.params r
  simp only [hostRead, touchesWindow_of_defined hdef, hdef, windowOffset_regAddr, State.readOffset_offset, if_true]

/-- Bits 31:4 of STATUS are 0 (R25). -/
theorem Status.getLsbD_toWord_of_ge (st : Status) {k : Nat} (hk : 4 ≤ k) : st.toWord.getLsbD k = false := by
  rw [Status.toWord, BitVec.getLsbD_setWidth, BitVec.getLsbD_of_ge _ _ hk, Bool.and_false]

/-- The bits of STATUS (R25). -/
theorem Status.getLsbD_toWord (st : Status) (k : Nat) :
    st.toWord.getLsbD k =
      if k = 0 then st.busy else if k = 1 then st.done else if k = 2 then st.errOpcode
      else if k = 3 then st.errBusy else false := by
  by_cases hk : k < 4
  · simp only [Status.toWord, BitVec.getLsbD_setWidth, BitVec.getLsbD_append]
    interval_cases k <;> simp
  · rw [Status.getLsbD_toWord_of_ge st (by omega), if_neg (by omega), if_neg (by omega), if_neg (by omega),
      if_neg (by omega)]

/-- The bits of CTRL (R24). -/
theorem Ctrl.getLsbD_toWord (c : Ctrl) (k : Nat) : c.toWord.getLsbD k = if k = 0 then c.clampEn else false := by
  by_cases hk : k = 0
  · simp [Ctrl.toWord, hk]
  · rw [Ctrl.toWord, BitVec.getLsbD_setWidth, BitVec.getLsbD_of_ge _ _ (by omega), Bool.and_false, if_neg hk]

/-- Settles O18: the read by `hostRead_regAddr`, STATUS and CTRL bit by bit. -/
theorem registerReadHasNoSideEffect : Obligations.RegisterReadHasNoSideEffect := by
  unfold Obligations.RegisterReadHasNoSideEffect
  intro s r
  refine ⟨?_, rfl, ?_, rfl, rfl, rfl, rfl, rfl, rfl, rfl, rfl, s.status.getLsbD_toWord, s.ctrl.getLsbD_toWord⟩
  · rw [hostStep, hostRead_regAddr, State.afterRead]
  · rw [State.regValue_config, alphaOffset_div_eight]

/-- Settles O25: the read by `hostRead_regAddr`, the repetition by the test on its value. -/
theorem pollRepeatsUntilMatch : Obligations.PollRepeatsUntilMatch := by
  unfold Obligations.PollRepeatsUntilMatch
  intro s r mask value
  have hvalue : ((s.regValue r).setWidth 64).setWidth 32 = s.regValue r := by simp
  rw [hostStep, hostRead_regAddr, pollAgain, hvalue]
  split <;> rfl

/-! Writes. -/

/-- CTRL takes bit 0 of the data (R24, R251). -/
theorem Ctrl.toWord_ofWrite (v : Word) : (Ctrl.ofWrite v).toWord = v &&& 1#32 := by
  refine BitVec.eq_of_getLsbD_eq fun k hk => ?_
  rw [Ctrl.getLsbD_toWord, BitVec.getLsbD_and, BitVec.getLsbD_one]
  by_cases hk0 : k = 0 <;> simp [hk0, Ctrl.ofWrite]

/-- STATUS loses the bits of the data in 0xE (R256). -/
theorem Status.toWord_clearBy (st : Status) (v : Word) : (st.clearBy v).toWord = st.toWord &&& ~~~(v &&& 0xE#32) := by
  refine BitVec.eq_of_getLsbD_eq fun k hk => ?_
  rw [BitVec.getLsbD_and]
  by_cases hk4 : k < 4
  · rw [Status.getLsbD_toWord, Status.getLsbD_toWord, BitVec.getLsbD_not, BitVec.getLsbD_and]
    interval_cases k <;> simp
  · rw [Status.getLsbD_toWord_of_ge _ (by omega), Status.getLsbD_toWord_of_ge _ (by omega), Bool.false_and]

/-- A register write changes the value of no other register. -/
theorem State.regValue_writeReg_other (s : State) {r r' : Reg} (v : Word) (h : r' ≠ r) :
    (s.writeReg r v).regValue r' = s.regValue r' := by
  revert h
  cases r <;> cases r' <;> simp [State.writeReg, State.regValue]

/-- Settles O17: the step is `State.writeReg`; CTRL and STATUS bit by bit, the other registers by their definition. -/
theorem registerWriteThenRead : Obligations.RegisterWriteThenRead := by
  unfold Obligations.RegisterWriteThenRead
  intro s r d hr
  refine ⟨s.writeReg r (d.setWidth 32), ?_, ?_, fun r' => s.regValue_writeReg_other _, s.writeReg_engine _ _,
    fun a => by rw [State.writeReg_mem], s.writeReg_params _ _, ?_, ?_⟩
  · rw [hostStep_write_regAddr, writeOffset_of_ne_cmd hr]
  · cases r with
    | ctrl => exact Ctrl.toWord_ofWrite _
    | status => exact Status.toWord_clearBy _ _
    | _ => rfl
  · cases r <;> rfl
  · cases r <;> rfl

/-! Accesses that are not a register's. -/

/-- An access that touches the window and is not an aligned word in it is refused, read and write alike (R21, log 9). -/
theorem hostStep_of_refused {s : State} {a : Word} {size : AccessSize} (d : BusData)
    (htouch : touchesWindow s.params a size = true) (hdef : definedWindowAccess s.params a size = false) :
    hostStep (.write a size d) s = .refused (.windowAccess a) ∧
      hostStep (.read a size) s = .refused (.windowAccess a) := by
  simp [hostStep, hostWrite, hostRead, htouch, hdef]

theorem touchesWindow_iff {P : Params} {a : Word} {size : AccessSize} :
    touchesWindow P a size = true ↔ ∃ k < size.bytes, (a + BitVec.ofNat 32 k - P.regBase).toNat < 256 := by
  simp [touchesWindow, span, Params.inWindow, Params.windowOffset]

theorem definedWindowAccess_iff {P : Params} {a : Word} {size : AccessSize} :
    definedWindowAccess P a size = true ↔
      size = .word ∧ (a - P.regBase).toNat < 256 ∧ (a - P.regBase).toNat % 4 = 0 := by
  simp only [definedWindowAccess, Params.inWindow, Bool.and_eq_true, beq_iff_eq, decide_eq_true_eq, and_assoc]
  rfl

/-- No register stands at an offset from 0x30 on (R20). -/
theorem atOffset_eq_none {off : Nat} (h : 0x30 ≤ off) : Reg.atOffset off = none := by
  have hoffset (r : Reg) : r.offset < 0x30 := by cases r <;> decide
  refine List.find?_eq_none.mpr fun r _ => ?_
  have hr := hoffset r
  simp only [beq_iff_eq]
  omega

/-- Settles O19: refusal by `hostStep_of_refused`; at a reserved offset the access is defined and finds no register. -/
theorem windowTakesAlignedWordsOnly : Obligations.WindowTakesAlignedWordsOnly := by
  unfold Obligations.WindowTakesAlignedWordsOnly
  refine ⟨fun s a size d htouch hbad => ?_, fun s off d hlow hhigh halign => ?_⟩
  · refine hostStep_of_refused d (touchesWindow_iff.mpr htouch) ?_
    rw [← Bool.not_eq_true, definedWindowAccess_iff]
    rintro ⟨hsize, hin, halign⟩
    obtain hsize' | halign' | hout := hbad
    · exact hsize' hsize
    · exact halign' halign
    · omega
  · have hoff : (s.params.regBase + BitVec.ofNat 32 off - s.params.regBase).toNat = off := by
      rw [add_sub_cancel_left, BitVec.toNat_ofNat, Nat.mod_eq_of_lt (by omega)]
    have hdef : definedWindowAccess s.params (s.params.regBase + BitVec.ofNat 32 off) .word = true := by
      rw [definedWindowAccess_iff, hoff]
      exact ⟨rfl, by omega, halign⟩
    have hnone := atOffset_eq_none hlow
    constructor
    · simp only [hostStep, hostWrite, touchesWindow_of_defined hdef, hdef, Params.windowOffset, hoff, writeOffset, hnone,
        if_true]
    · simp only [hostStep, hostRead, touchesWindow_of_defined hdef, hdef, Params.windowOffset, hoff, State.readOffset,
        hnone, if_true]
      rfl

/-! The values at reset. -/

/-- Settles O14: `State.resetWith_regValue`, and CONFIG by its equation. -/
theorem resetRegisterValues : Obligations.ResetRegisterValues := by
  unfold Obligations.ResetRegisterValues
  refine ⟨fun P r => ?_, fun P => rfl, rfl⟩
  rw [State.resetWith_regValue, State.regValue_config, alphaOffset_div_eight]
  rfl

end Sys2Proof.Machine

/-! ## Whose step it is

In IDLE only the host moves, in RUN either agent (R258). A host access that is a CMD write runs the decoded command. -/

namespace Sys2Proof.Machine

/-- Where the host moves, the step is its coming access. -/
theorem step_of_nextAgent_host {s : State} {op : HostOp} {rest : List HostOp} (hagent : s.nextAgent = some .host)
    (hhost : s.host = op :: rest) : step s = hostStep op (s.spendTurn.takeHost rest) := by
  simp only [step, takeTurn, hagent, hhost]

theorem step_of_idle_host {s : State} {op : HostOp} {rest : List HostOp} (hidle : s.engine.phase = .idle)
    (hhost : s.host = op :: rest) : step s = hostStep op { s with host := rest } := by
  rw [step_of_nextAgent_host (by simp only [State.nextAgent, hidle, hhost]) hhost]
  simp only [State.spendTurn, hidle, hhost, State.takeHost]

/-- Settles O26: each case by what `nextAgent` and `spendTurn` are there. -/
theorem interleavingOfHostAndEngine : Obligations.InterleavingOfHostAndEngine := by
  unfold Obligations.InterleavingOfHostAndEngine
  refine ⟨fun s hidle hhost => ?_, fun s op rest => step_of_idle_host, fun s => step_of_run_no_host,
    fun s op rest ts hrun hhost hturns => ?_, fun s op rest ts hrun hhost hturns => ?_⟩
  · simp only [step, takeTurn, State.nextAgent, hidle, hhost]
  · have hagent : s.nextAgent = some .host := by simp [State.nextAgent, hrun, hhost, hturns]
    rw [step_of_nextAgent_host hagent hhost]
    simp only [State.spendTurn, hrun, hhost, hturns, State.takeHost, List.tail_cons]
  · have hagent : s.nextAgent = some .engine := by simp [State.nextAgent, hrun, hhost, hturns]
    simp only [step, takeTurn, hagent, State.spendTurn, hrun, hhost, hturns, List.tail_cons]

/-- The bytes of a word decode to the command of the word. -/
theorem decode_bytesOfWord_iff {w : Word} {i : Instr} : decode (bytesOfWord w) = .ok (i, []) ↔ decodeWord w = .ok i := by
  rw [bytesOfWord, decode_cons_eq_ok_iff, wordOfBytes_byteOfWord]
  exact and_iff_left rfl

theorem commandWrite_of_decodeWord {w : Word} {i : Instr} (h : decodeWord w = .ok i) (s : State) :
    commandWrite w s = exec i s := by
  simp only [commandWrite, h]

@[simp] theorem State.spendTurn_params (s : State) : s.spendTurn.params = s.params := by
  obtain ⟨ts, he⟩ := s.spendTurn_eq
  rw [he]

/-- A host write of a command's word to CMD is the command's meaning (R252). -/
theorem hostStep_write_command {s : State} {d : BusData} {i : Instr} (h : decodeWord (d.setWidth 32) = .ok i) :
    hostStep (.write (s.params.regAddr .cmd) .word d) s = exec i s := by
  rw [hostStep_write_regAddr, writeOffset_cmd, commandWrite_of_decodeWord h]

/-- The command word as the table numbers it is the word itself. -/
theorem tableWord_toNat (w : Word) : tableWord 32 w.toNat = w := by
  rw [tableWord, Nat.mod_eq_of_lt w.isLt, BitVec.ofNat_toNat, BitVec.setWidth_eq]

/-- Settles O4: the step is the host's access, which is a CMD write of the command's word. -/
theorem stepRunsDecodedCommand : Obligations.StepRunsDecodedCommand := by
  unfold Obligations.StepRunsDecodedCommand
  refine ⟨fun s i d rest hagent hhost hdecode _ => ?_, fun s i => ?_⟩
  · have hparams : (s.spendTurn.takeHost rest).params = s.params := by simp
    rw [step_of_nextAgent_host hagent hhost, ← hparams,
      hostStep_write_command (decode_bytesOfWord_iff.mp hdecode)]
  · have hword : decodeWord (((encodeWord i).setWidth 64).setWidth 32) = .ok i := by
      rw [decodeWord_eq_ok_iff_encodeWord]
      simp
    rw [State.withFetchWord, tableWord_toNat, step_of_idle_host (s := s.withCommand (encodeWord i)) rfl rfl]
    exact hostStep_write_command hword

end Sys2Proof.Machine

/-! ## What changes STATUS and PIX_OUT

A step changes these two only where the host resets, writes STATUS or writes CMD, or where the engine completes. The error
bits fall by the first two alone (R272), BUSY rises by a CMD write alone and falls by reset and the completion alone (R25),
and PIX_OUT changes by reset and the single-pixel commands alone (R32). -/

namespace Sys2Proof.Machine

/-- All that a host step can do to STATUS and PIX_OUT, with the access that does it. -/
theorem hostStep_status_cases {op : HostOp} {s t : State} (h : hostStep op s = .next t) :
    (t.status = s.status ∧ t.pixOut = s.pixOut) ∨ (op = .reset ∧ t = s.resetBlock) ∨
    (∃ a d, op = .write a .word d ∧ Reg.atOffset (s.params.windowOffset a) = some .status ∧
      t = s.writeReg .status (d.setWidth 32)) ∨
    ∃ a d, op = .write a .word d ∧ Reg.atOffset (s.params.windowOffset a) = some .cmd ∧
      commandWrite (d.setWidth 32) s = .next t := by
  cases op with
  | write a size d =>
    obtain ⟨hdef, ⟨-, rfl⟩ | ⟨r, hr, hoff, rfl⟩ | ⟨hoff, hcmd⟩⟩ | ⟨-, rfl⟩ := hostWrite_cases h
    · exact .inl ⟨rfl, rfl⟩
    · obtain ⟨rfl, -⟩ := definedWindowAccess_iff.mp hdef
      cases r with
      | status => exact .inr (.inr (.inl ⟨a, d, rfl, hoff, rfl⟩))
      | _ => exact .inl ⟨rfl, rfl⟩
    · obtain ⟨rfl, -⟩ := definedWindowAccess_iff.mp hdef
      exact .inr (.inr (.inr ⟨a, d, rfl, hoff, hcmd⟩))
    · exact .inl ⟨rfl, rfl⟩
  | read a size =>
    obtain ⟨-, hstatus, -, hpix⟩ := hostRead_frame (fun _ u => ⟨u.host, rfl⟩) h
    exact .inl ⟨hstatus, hpix⟩
  | poll a mask value =>
    obtain ⟨-, hstatus, -, hpix⟩ := hostRead_frame (pollAgain_eq a mask value) h
    exact .inl ⟨hstatus, hpix⟩
  | reset =>
    injection h with h
    exact .inr (.inl ⟨rfl, h.symm⟩)

/-- The completion step changes no register but STATUS. -/
@[simp] theorem State.finishBlit_pixOut (s : State) : s.finishBlit.pixOut = s.pixOut := by
  obtain ⟨hregs, -⟩ := s.finishBlit_frame
  exact hregs .pixOut (by decide)

/-- The same of a step of the machine: the engine completes, or the host's access in front of the list does it. -/
theorem step_status_cases {s t : State} (h : step s = .next t) :
    (t.status = s.status ∧ t.pixOut = s.pixOut) ∨
    (s.engine.phase = .run ∧ (s.engine.next s.params.alpha).2 = .finish ∧ t.status = s.status.onFinish ∧
      t.pixOut = s.pixOut) ∨
    ∃ op rest, s.host = op :: rest ∧
      ((op = .reset ∧ t.status.busy = false) ∨
      (∃ a d, op = .write a .word d ∧ Reg.atOffset (s.params.windowOffset a) = some .status ∧
        t.status = s.status.clearBy (d.setWidth 32) ∧ t.pixOut = s.pixOut) ∨
      ∃ a d ts, op = .write a .word d ∧ Reg.atOffset (s.params.windowOffset a) = some .cmd ∧
        commandWrite (d.setWidth 32) { s with turns := ts, host := rest } = .next t) := by
  obtain ⟨-, -, rfl⟩ | ⟨hrun, ts, heng⟩ | ⟨op, rest, ts, hhost, hstep⟩ := step_cases h
  · exact .inl ⟨rfl, rfl⟩
  · obtain ⟨a, -, -, rfl⟩ | ⟨a, v, -, -, rfl⟩ | ⟨hfinish, rfl⟩ := engineStep_cases heng
    · exact .inl ⟨rfl, rfl⟩
    · exact .inl ⟨rfl, rfl⟩
    · exact .inr (.inl ⟨hrun, hfinish, by simp, by rw [State.finishBlit_pixOut]; rfl⟩)
  · obtain hsame | ⟨rfl, rfl⟩ | ⟨a, d, rfl, hoff, rfl⟩ | ⟨a, d, rfl, hoff, hcmd⟩ := hostStep_status_cases hstep
    · exact .inl hsame
    · exact .inr (.inr ⟨_, rest, hhost, .inl ⟨rfl, rfl⟩⟩)
    · exact .inr (.inr ⟨_, rest, hhost, .inr (.inl ⟨a, d, rfl, hoff, rfl, rfl⟩)⟩)
    · exact .inr (.inr ⟨_, rest, hhost, .inr (.inr ⟨a, d, ts, rfl, hoff, hcmd⟩)⟩)

/-! CMD writes. -/

/-- A CMD write that changes PIX_OUT is an accepted single-pixel command (R32). -/
theorem commandWrite_pixOut {w : Word} {s t : State} (h : commandWrite w s = .next t) (hne : t.pixOut ≠ s.pixOut) :
    s.status.busy = false ∧ (w = 3#32 ∨ w = 4#32 ∨ w = 5#32) := by
  obtain ⟨-, rfl⟩ | ⟨hfree, i, hdec, hexec⟩ | ⟨-, -, rfl⟩ := commandWrite_cases h
  · exact absurd rfl hne
  · have hword := decodeWord_eq_ok_iff_encodeWord.mp hdec
    obtain rfl | ⟨hi, v, rfl⟩ | ⟨-, -, rfl⟩ := exec_accepted hfree hexec
    · exact absurd rfl hne
    · obtain rfl | rfl | rfl := hi
      · exact ⟨hfree, .inl hword⟩
      · exact ⟨hfree, .inr (.inl hword)⟩
      · exact ⟨hfree, .inr (.inr hword)⟩
    · exact absurd rfl hne
  · exact absurd rfl hne

/-- A CMD write clears no error bit (R272). -/
theorem commandWrite_keeps_errors {w : Word} {s t : State} (h : commandWrite w s = .next t) :
    (s.status.errOpcode = true → t.status.errOpcode = true) ∧ (s.status.errBusy = true → t.status.errBusy = true) := by
  obtain ⟨-, rfl⟩ | ⟨hfree, i, -, hexec⟩ | ⟨-, -, rfl⟩ := commandWrite_cases h
  · exact ⟨id, fun _ => rfl⟩
  · obtain rfl | ⟨-, v, rfl⟩ | ⟨-, -, rfl⟩ := exec_accepted hfree hexec
    · exact ⟨id, id⟩
    · exact ⟨id, id⟩
    · exact ⟨id, id⟩
  · exact ⟨fun _ => rfl, id⟩

/-- A CMD write that changes BUSY sets it, at the start of a BLIT with pixels (R226). -/
theorem commandWrite_busy {w : Word} {s t : State} (h : commandWrite w s = .next t)
    (hne : t.status.busy ≠ s.status.busy) :
    s.status.busy = false ∧ 0 < s.width.toInt ∧ 0 < s.height.toInt ∧ (w = 1#32 ∨ w = 2#32) := by
  obtain ⟨-, rfl⟩ | ⟨hfree, i, hdec, hexec⟩ | ⟨-, -, rfl⟩ := commandWrite_cases h
  · exact absurd rfl hne
  · have hword := decodeWord_eq_ok_iff_encodeWord.mp hdec
    obtain rfl | ⟨-, v, rfl⟩ | ⟨hblit, hpixels, rfl⟩ := exec_accepted hfree hexec
    · exact absurd rfl hne
    · exact absurd rfl hne
    · rw [State.latchFor_empty_iff] at hpixels
      refine ⟨hfree, by omega, by omega, ?_⟩
      cases i with
      | blitUnpremul => exact .inl hword
      | blitPremul => exact .inr hword
      | _ => cases hblit
  · exact absurd rfl hne

/-! The obligations. -/

/-- Settles O22: of the steps that change STATUS or PIX_OUT, the engine's and a STATUS write keep PIX_OUT. -/
theorem onlySinglePixelCommandsWritePixOut : Obligations.OnlySinglePixelCommandsWritePixOut := by
  unfold Obligations.OnlySinglePixelCommandsWritePixOut
  intro s t h hne
  obtain ⟨-, hpix⟩ | ⟨-, -, -, hpix⟩ | ⟨op, rest, hhost, ⟨hreset, -⟩ | ⟨a, d, -, -, -, hpix⟩ |
    ⟨a, d, ts, hop, hoff, hcmd⟩⟩ := step_status_cases h
  · exact absurd hpix hne
  · exact absurd hpix hne
  · exact ⟨op, rest, hhost, .inl hreset⟩
  · exact absurd hpix hne
  · obtain ⟨hfree, hword⟩ := commandWrite_pixOut hcmd hne
    exact ⟨op, rest, hhost, .inr ⟨hfree, a, d, hop, hoff, hword⟩⟩

/-- A STATUS write clears an error bit only where its own bit is 1 (R256). -/
theorem getLsbD_of_cleared {old : Bool} {d : BusData} {k : Nat} (hk : k < 32) (hold : old = true)
    (h : (old && !((d.setWidth 32).getLsbD k)) = false) : d.getLsbD k = true := by
  simpa [hold, hk] using h

/-- Settles O23: of the steps that change STATUS, the completion and a CMD write clear no error bit. -/
theorem errorBitsAreSticky : Obligations.ErrorBitsAreSticky := by
  unfold Obligations.ErrorBitsAreSticky
  intro s t h
  obtain ⟨hstatus, -⟩ | ⟨-, -, hstatus, -⟩ | ⟨op, rest, hhost, ⟨hreset, -⟩ | ⟨a, d, hop, hoff, hstatus, -⟩ |
    ⟨a, d, ts, -, -, hcmd⟩⟩ := step_status_cases h
  · rw [hstatus]
    exact ⟨fun hset hclear => absurd hset (by simp [hclear]), fun hset hclear => absurd hset (by simp [hclear])⟩
  · rw [hstatus]
    exact ⟨fun hset hclear => absurd hset (by simpa using hclear),
      fun hset hclear => absurd hset (by simpa using hclear)⟩
  · exact ⟨fun _ _ => ⟨op, rest, hhost, .inl hreset⟩, fun _ _ => ⟨op, rest, hhost, .inl hreset⟩⟩
  · rw [hstatus]
    exact ⟨fun hset hclear => ⟨op, rest, hhost, .inr ⟨a, d, hop, hoff, getLsbD_of_cleared (by decide) hset hclear⟩⟩,
      fun hset hclear => ⟨op, rest, hhost, .inr ⟨a, d, hop, hoff, getLsbD_of_cleared (by decide) hset hclear⟩⟩⟩
  · obtain ⟨hopcode, hbusy⟩ := commandWrite_keeps_errors hcmd
    exact ⟨fun hset hclear => absurd (hopcode hset) (by simp [hclear]),
      fun hset hclear => absurd (hbusy hset) (by simp [hclear])⟩

/-- Settles O24: of the steps that change STATUS, a CMD write alone sets BUSY, reset and the completion alone clear it. -/
theorem busyRisesAndFallsAsTheStatusTableSays : Obligations.BusyRisesAndFallsAsTheStatusTableSays := by
  unfold Obligations.BusyRisesAndFallsAsTheStatusTableSays
  intro s t h
  obtain ⟨hstatus, -⟩ | ⟨hrun, hfinish, hstatus, -⟩ | ⟨op, rest, hhost, ⟨rfl, hbusy⟩ | ⟨a, d, -, -, hstatus, -⟩ |
    ⟨a, d, ts, rfl, hoff, hcmd⟩⟩ := step_status_cases h
  · rw [hstatus]
    exact ⟨fun hfree hbusy => absurd hbusy (by simp [hfree]), fun hbusy hfree => absurd hbusy (by simp [hfree])⟩
  · rw [hstatus]
    exact ⟨fun _ hbusy => by simp at hbusy, fun _ _ => .inr ⟨hrun, hfinish, rfl⟩⟩
  · exact ⟨fun _ hrise => absurd hrise (by simp [hbusy]), fun _ _ => .inl ⟨rest, hhost⟩⟩
  · rw [hstatus]
    exact ⟨fun hfree hbusy => absurd hbusy (by simp [hfree]), fun hbusy hfree => absurd hbusy (by simpa using hfree)⟩
  · refine ⟨fun hfree hbusy => ?_, fun hbusy hfree => ?_⟩
    · obtain ⟨-, hwidth, hheight, hword⟩ := commandWrite_busy hcmd (by rw [hbusy]; simp [hfree])
      exact ⟨hwidth, hheight, a, d, rest, hhost, hoff, hword⟩
    · obtain ⟨hfree', -⟩ := commandWrite_busy hcmd (by rw [hfree]; simp [hbusy])
      exact absurd hbusy (by simpa using hfree')

end Sys2Proof.Machine

/-! ## What a command latches, and what it leaves alone

An accepted command copies its operands to `L` (R33), and from then on the engine reads `L` alone: a write to a parameter
register and an engine step may be made in either order. Apart from that a command changes STATUS, PIX_OUT and, where a
BLIT starts, the engine's place and the trace. -/

namespace Sys2Proof.Machine

theorem exec_accepted_latch {i : Instr} {s t : State} (hfree : s.status.busy = false) (h : exec i s = .next t) :
    t.engine.latch = s.latchFor i := by
  obtain rfl | ⟨-, v, rfl⟩ | ⟨-, -, rfl⟩ := exec_accepted hfree h <;> rfl

/-! Register writes and engine steps in either order. -/

theorem State.writeReg_atMotion (s : State) (r : Reg) (v : Word) :
    (s.writeReg r v).atMotion = s.atMotion.writeReg r v := by
  cases r <;> rfl

theorem State.writeReg_engineRead (s : State) (r : Reg) (v a : Word) :
    (s.writeReg r v).engineRead a = (s.engineRead a).writeReg r v := by
  cases r <;> rfl

theorem State.writeReg_engineWrite (s : State) (r : Reg) (v a w : Word) :
    (s.writeReg r v).engineWrite a w = (s.engineWrite a w).writeReg r v := by
  cases r <;> rfl

theorem State.writeReg_drawDst (s : State) (r : Reg) (v : Word) :
    (s.writeReg r v).drawDst = s.drawDst.writeReg r v := by
  cases r <;> rfl

theorem State.writeReg_endRun (s : State) {r : Reg} (hr : r ≠ .status) (v : Word) :
    (s.writeReg r v).endRun = s.endRun.writeReg r v := by
  cases r with
  | status => exact absurd rfl hr
  | _ => rfl

theorem State.writeReg_finishBlit (s : State) {r : Reg} (hr : r ≠ .status) (v : Word) :
    (s.writeReg r v).finishBlit = s.finishBlit.writeReg r v := by
  by_cases hdef : s.engine.Defined
  · rw [State.finishBlit, State.finishBlit, if_pos hdef, State.writeReg_engine, if_pos hdef, State.writeReg_endRun s hr]
  · rw [State.finishBlit, State.finishBlit, if_neg hdef, State.writeReg_engine, if_neg hdef, State.writeReg_drawDst,
      State.writeReg_endRun _ hr]

/-- A write to any register but STATUS before an engine step gives the same as after it (R33). -/
theorem engineStep_writeReg {s t : State} {r : Reg} (hr : r ≠ .status) (v : Word) (h : engineStep s = .next t) :
    engineStep (s.writeReg r v) = .next (t.writeReg r v) := by
  obtain ⟨a, hm, hstop, rfl⟩ | ⟨a, w, hm, hstop, rfl⟩ | ⟨hm, rfl⟩ := engineStep_cases h
  · rw [engineStep_of_read (a := a) (by simpa using hm) (by simpa using hstop), State.writeReg_atMotion,
      State.writeReg_engineRead]
  · rw [engineStep_of_write (a := a) (v := w) (by simpa using hm) (by simpa using hstop), State.writeReg_atMotion,
      State.writeReg_engineWrite]
  · rw [engineStep_of_finish (by simpa using hm), State.writeReg_atMotion, State.writeReg_finishBlit _ hr]

/-- Settles O12: the latch by `exec_accepted_latch`, the commutation by `engineStep_writeReg`. -/
theorem acceptanceLatchesOperands : Obligations.AcceptanceLatchesOperands := by
  unfold Obligations.AcceptanceLatchesOperands
  refine ⟨fun i s t hfree h => exec_accepted_latch hfree h, fun s t r v hr h => engineStep_writeReg ?_ v h⟩
  rintro rfl
  revert hr
  decide

/-- Settles O13: while busy only ERR_BUSY changes; else by the three ways an accepted command can go. -/
theorem commandFrame : Obligations.CommandFrame := by
  unfold Obligations.CommandFrame
  intro i s t h
  cases hbusy : s.status.busy with
  | true =>
    rw [exec_of_busy i hbusy] at h
    injection h with h
    subst h
    simp [hbusy]
  | false =>
    obtain rfl | ⟨hpix, v, rfl⟩ | ⟨hblit, -, rfl⟩ := exec_accepted hbusy h
    · simp
    · have hne : ¬ (i = .nop ∨ i = .blitUnpremul ∨ i = .blitPremul) := by
        obtain rfl | rfl | rfl := hpix <;> decide
      simp [hne]
    · have hne : ¬ (i = .nop ∨ i = .pixUnpremul ∨ i = .pixPremul ∨ i = .recipRead) := by
        rintro (rfl | rfl | rfl | rfl) <;> cases hblit
      simp [hne]

end Sys2Proof.Machine

/-! ## The reciprocal table and the channel functions

The laws of the table are those of its closed formula (R120, R122): `R(α) · α` exceeds `255 · 2^16` by less than `α`. The
laws of the unpremultiply channel are those of the saturated floor quotient (R146). -/

namespace Sys2Proof.Machine

/-! The table (R122). -/

theorem le_ceilReciprocal {a : Nat} (ha : 0 < a) (ha' : a < 256) : 0x010000 ≤ ceilReciprocal a := by
  obtain ⟨hlow, -⟩ := ceilReciprocal_mul_bounds ha
  by_contra! hlt
  have hmul : ceilReciprocal a * a ≤ 0xFFFF * 255 := Nat.mul_le_mul (by omega) (by omega)
  omega

/-- The entries fall strictly: were `R(b) ≥ R(a)` for a larger `b`, then `R(b) · b` would exceed its bound by `R(a)`. -/
theorem ceilReciprocal_lt {a b : Nat} (ha : 0 < a) (hab : a < b) (hb : b < 256) :
    ceilReciprocal b < ceilReciprocal a := by
  obtain ⟨hlow, -⟩ := ceilReciprocal_mul_bounds ha
  obtain ⟨-, hhigh⟩ := ceilReciprocal_mul_bounds (ha.trans hab)
  have hlarge := le_ceilReciprocal ha (hab.trans hb)
  by_contra! hle
  have hmul : ceilReciprocal a * (a + 1) ≤ ceilReciprocal b * b := Nat.mul_le_mul hle hab
  rw [Nat.mul_succ] at hmul
  omega

/-- A property of the 8-bit values, page by page of 32, as R123 lists them. -/
theorem forall_lt_256_of_pages {P : Nat → Prop} (h : ∀ page < 8, ∀ j < 32, P (32 * page + j)) : ∀ a < 256, P a := by
  intro a ha
  have hpage := h (a / 32) (by omega) (a % 32) (Nat.mod_lt _ (by decide))
  rwa [Nat.div_add_mod] at hpage

/-- The alphas at which the division is exact, by evaluation of the 255. -/
theorem ceilReciprocal_exact_iff :
    ∀ a < 256, a ≠ 0 → (ceilReciprocal a * a = 255 * 2 ^ 16 ↔ a ∈ exactReciprocals) :=
  forall_lt_256_of_pages (by decide)

/-- Settles O28: the table by its formula, the bytes by their values. -/
theorem reciprocalTableProperties : Obligations.ReciprocalTableProperties := by
  unfold Obligations.ReciprocalTableProperties
  have hpos {a : Byte} (ha : a ≠ 0#8) : 0 < a.toNat := by bv_omega
  simp only [recip_toNat]
  refine ⟨by decide, fun a => ceilReciprocal_le _, by decide, fun a ha => le_ceilReciprocal (hpos ha) a.isLt, by decide,
    fun a b ha hab => ceilReciprocal_lt (hpos ha) hab b.isLt, fun a ha => ceilReciprocal_mul_bounds (hpos ha),
    fun a ha => ceilReciprocal_exact_iff _ a.isLt (hpos ha).ne'⟩

/-- Settles O29: the product by the largest entry, the quotient by `lookupDivide_eq_div`. -/
theorem lookupDivideIsFloorQuotient : Obligations.LookupDivideIsFloorQuotient := by
  unfold Obligations.LookupDivideIsFloorQuotient
  intro c a
  have hproduct : c.toNat * ceilReciprocal a.toNat ≤ 255 * 0xFF0000 :=
    Nat.mul_le_mul (Nat.le_of_lt_succ c.isLt) (ceilReciprocal_le _)
  refine ⟨?_, ?_, fun ha => lookupDivide_eq_div ha c.isLt, ?_⟩
  · rw [lookupDivide_eq_mul_div, recip_toNat]
  · rw [recip_toNat]
    exact hproduct
  · rintro rfl
    exact lookupDivide_zero _

/-! The unpremultiply channel (R146). -/

/-- Valid input, clamped or not, does not saturate. -/
theorem lookupDivide_le_of_le {c : Nat} {a : Byte} (h : c ≤ a.toNat) : lookupDivide c a ≤ 255 := by
  by_cases ha : a = 0#8
  · rw [ha, lookupDivide_zero]
    exact Nat.zero_le _
  · have ha' := a.isLt
    rw [lookupDivide_eq_div ha (by omega)]
    refine Nat.div_le_of_le_mul ?_
    rw [Nat.mul_comm]
    exact Nat.mul_le_mul_right 255 h

theorem unpremulChannel_toNat_of_le {c a : Byte} {clamp : Bool} (h : clampInput c a clamp ≤ a.toNat) :
    (unpremulChannel c a clamp).toNat = lookupDivide (clampInput c a clamp) a := by
  rw [unpremulChannel, clamp8_toNat, Nat.min_eq_left (lookupDivide_le_of_le h)]

/-- The floor quotient is within one level of the real quotient. -/
theorem lookupDivide_mul_bounds {c : Nat} {a : Byte} (ha : a ≠ 0#8) (hc : c < 256) :
    lookupDivide c a * a.toNat ≤ 255 * c ∧ 255 * c < (lookupDivide c a + 1) * a.toNat := by
  have hpos : 0 < a.toNat := by bv_omega
  rw [lookupDivide_eq_div ha hc]
  exact ⟨Nat.div_mul_le_self _ _, (Nat.div_lt_iff_lt_mul hpos).mp (Nat.lt_succ_self _)⟩

/-- Superluminant input without the clamp is past saturation. -/
theorem le_lookupDivide_of_superluminant {c a : Byte} (ha : a ≠ 0#8) (h : a < c) : 256 ≤ lookupDivide c.toNat a := by
  have hpos : 0 < a.toNat := by bv_omega
  have hlt : a.toNat < c.toNat := h
  have hc := c.isLt
  rw [lookupDivide_eq_div ha hc, Nat.le_div_iff_mul_le hpos]
  omega

theorem clampInput_mono {c c' : Byte} (a : Byte) (clamp : Bool) (h : c ≤ c') :
    clampInput c a clamp ≤ clampInput c' a clamp := by
  have hle : c.toNat ≤ c'.toNat := h
  unfold clampInput
  split <;> omega

theorem lookupDivide_mono {c c' : Nat} (a : Byte) (h : c ≤ c') : lookupDivide c a ≤ lookupDivide c' a := by
  rw [lookupDivide_eq_mul_div, lookupDivide_eq_mul_div]
  exact Nat.div_le_div_right (Nat.mul_le_mul_right _ h)

theorem unpremulChannel_mono {c c' : Byte} (a : Byte) (clamp : Bool) (h : c ≤ c') :
    unpremulChannel c a clamp ≤ unpremulChannel c' a clamp := by
  show (unpremulChannel c a clamp).toNat ≤ (unpremulChannel c' a clamp).toNat
  rw [unpremulChannel, unpremulChannel, clamp8_toNat, clamp8_toNat]
  exact min_le_min_right 255 (lookupDivide_mono a (clampInput_mono a clamp h))

/-- Settles O30: one lemma for each law. -/
theorem unpremulChannelLaws : Obligations.UnpremulChannelLaws := by
  unfold Obligations.UnpremulChannelLaws
  intro c a clamp
  refine ⟨?_, unpremulChannel_toNat c clamp, fun ha hle => ?_, fun hle => ?_, fun ha hlt => ?_, ?_,
    fun c' => unpremulChannel_mono a clamp⟩
  · rintro rfl
    exact unpremulChannel_transparent c clamp
  · rw [unpremulChannel_toNat_of_le hle]
    exact lookupDivide_mul_bounds ha (clampInput_lt c a clamp)
  · have hle' : clampInput c a clamp ≤ a.toNat := by
      rw [clampInput_of_le clamp hle]
      exact hle
    exact ⟨lookupDivide_le_of_le hle', unpremulChannel_toNat_of_le hle'⟩
  · exact ⟨le_lookupDivide_of_superluminant ha hlt, unpremulChannel_superluminant false ha hlt⟩
  · rintro rfl
    exact unpremulChannel_opaque c clamp

/-! The pixel functions, channel by channel. -/

@[simp] theorem alpha_premulPixel (A : AlphaPos) (p : Word) : A.alpha (premulPixel A p) = A.alpha p :=
  A.alpha_pack ..

/-- Settles O31: the channels of a packed pixel are those packed. -/
theorem pixelFunctionsActChannelwise : Obligations.PixelFunctionsActChannelwise := by
  unfold Obligations.PixelFunctionsActChannelwise
  intro A p clamp
  exact ⟨alpha_unpremulPixel A p clamp, red_unpremulPixel A p clamp, green_unpremulPixel A p clamp,
    blue_unpremulPixel A p clamp, alpha_premulPixel A p, A.red_pack .., A.green_pack .., A.blue_pack ..⟩

/-- The clamp changes no channel: it changes no input at most alpha, and above alpha both results are 255, or 0 where
alpha is 0. -/
theorem unpremulChannel_clamp_irrelevant (c a : Byte) : unpremulChannel c a false = unpremulChannel c a true := by
  by_cases hle : c ≤ a
  · rw [unpremulChannel, unpremulChannel, clampInput_of_le false hle, clampInput_of_le true hle]
  · have hlt : a < c := BitVec.not_le.mp hle
    by_cases ha : a = 0#8
    · rw [ha, unpremulChannel_transparent, unpremulChannel_transparent]
    · rw [unpremulChannel_superluminant false ha hlt, unpremulChannel_superluminant true ha hlt]

/-- Settles O32: channel by channel. -/
theorem inputClampChangesNoOutput : Obligations.InputClampChangesNoOutput := by
  unfold Obligations.InputClampChangesNoOutput
  intro A p
  simp only [unpremulPixel, unpremulChannel_clamp_irrelevant]

/-- Settles O34: both channel functions keep every colour at alpha 255. -/
theorem opaquePixelIsFixedPoint : Obligations.OpaquePixelIsFixedPoint := by
  unfold Obligations.OpaquePixelIsFixedPoint
  exact fun A p h => ⟨fun clamp => unpremulPixel_opaque clamp h, premulPixel_opaque h⟩

/-- Settles O35: packing and unpacking by the bytes of the word, the masks and offsets in each of the four layouts. -/
theorem packOfChannelsIsPixel : Obligations.PackOfChannelsIsPixel := by
  unfold Obligations.PackOfChannelsIsPixel
  intro A
  refine ⟨A.pack_channels, fun a r g b => ⟨A.alpha_pack .., A.red_pack .., A.green_pack .., A.blue_pack ..⟩, ?_, ?_⟩
  · cases A <;> decide
  · cases A <;> decide

/-! The positioned-shift forms (R145, R173). -/

/-- The bits of a shifted product: bit `j` is bit `j + 16 - off` of the product, from the channel's offset on. -/
theorem getLsbD_positionedShift {off : Nat} (hoff : off ∈ [0, 8, 16, 24]) (x : Nat) {j : Nat} (hj : j < 32)
    (hlow : off ≤ j) : (positionedShift x ((off : Int) - 16)).getLsbD j = x.testBit (16 + (j - off)) := by
  simp only [List.mem_cons, List.not_mem_nil, or_false] at hoff
  unfold positionedShift
  obtain rfl | rfl | rfl | rfl := hoff
  · rw [if_neg (by decide), BitVec.getLsbD_ofNat, decide_eq_true hj, Bool.true_and]
    exact Nat.testBit_shiftRight x
  · rw [if_neg (by decide), BitVec.getLsbD_ofNat, decide_eq_true hj, Bool.true_and]
    refine (Nat.testBit_shiftRight x).trans (congrArg x.testBit ?_)
    show 8 + j = 16 + (j - 8)
    omega
  · rw [if_pos (by decide), BitVec.getLsbD_ofNat, decide_eq_true hj, Bool.true_and]
    refine congrArg x.testBit ?_
    omega
  · rw [if_pos (by decide), BitVec.getLsbD_ofNat, decide_eq_true hj, Bool.true_and]
    refine (Nat.testBit_shiftLeft x).trans ?_
    show (decide (j ≥ 8) && x.testBit (j - 8)) = x.testBit (16 + (j - 24))
    have hpos : j - 8 = 16 + (j - 24) := by omega
    have hge : j ≥ 8 := by omega
    rw [decide_eq_true hge, Bool.true_and, hpos]

/-- The mask of the channel at `off` is the eight bits from `off` on. -/
theorem getLsbD_channelMask (off : Nat) {j : Nat} (hj : j < 32) :
    (channelMask off).getLsbD j = (decide (off ≤ j) && decide (j - off < 8)) := by
  have hbyte : (0xFF#32).getLsbD (j - off) = decide (j - off < 8) := by
    have hsmall : j - off < 32 := by omega
    interval_cases j - off <;> rfl
  rw [channelMask, BitVec.getLsbD_shiftLeft, hbyte]
  by_cases hlow : off ≤ j
  · simp [hj, hlow, hlow.not_gt]
  · simp [hlow, Nat.lt_of_not_le hlow]

/-- The product in its place: bits `16 + k` on, at the channel's offset. -/
theorem positionedShift_and_channelMask {off : Nat} (hoff : off ∈ [0, 8, 16, 24]) (x : Nat) :
    positionedShift x ((off : Int) - 16) &&& channelMask off =
      (BitVec.ofNat 8 (x >>> 16)).setWidth 32 <<< off := by
  refine BitVec.eq_of_getLsbD_eq fun j hj => ?_
  rw [BitVec.getLsbD_and, getLsbD_channelMask off hj, BitVec.getLsbD_shiftLeft, BitVec.getLsbD_setWidth,
    BitVec.getLsbD_ofNat, Nat.testBit_shiftRight]
  by_cases hlow : off ≤ j
  · rw [getLsbD_positionedShift hoff x hj hlow]
    have hsmall : j - off < 32 := by omega
    simp [hlow, hj, hsmall, Bool.and_comm]
  · simp [hlow]

/-- Settles O36: both results are the product's bits from 16 on, for they do not exceed 255. -/
theorem positionedShiftForms : Obligations.PositionedShiftForms := by
  unfold Obligations.PositionedShiftForms
  intro c a clamp off hoff
  rw [positionedShift_and_channelMask hoff, positionedShift_and_channelMask hoff]
  constructor
  · intro hvalid
    have hle : clampInput c a clamp ≤ a.toNat := by
      obtain hca | rfl := hvalid
      · rw [clampInput_of_le clamp hca]
        exact hca
      · exact Nat.min_le_right _ _
    rw [unpremulChannel, clamp8, Nat.min_eq_left (lookupDivide_le_of_le hle), lookupDivide]
  · have hle : (c.toNat * a.toNat * 257 + 32768) >>> 16 ≤ 255 := by
      rw [Nat.shiftRight_eq_div_pow]
      exact premulProduct_div_le c a
    rw [premulChannel, clamp8, Nat.min_eq_left hle]

end Sys2Proof.Machine

/-! ## The rounding of the premultiply channel

For `x = c · a` the formula's quotient is `round(x / 255)`, or one less where `x` is 127 below a multiple of 255 that is
large enough: then `x` is 128 modulo 255 and at least 33023 (R174). There 2 is an inverse of `c · a` modulo 255, so `a` is
fixed by `c`, and the 24 listed pairs are found by one evaluation for each `c`. -/

namespace Sys2Proof.Machine

/-! The quotient of R171 and the nearest integer. -/

theorem premulQuotient_eq_round_or {x : Nat} (hx : x ≤ 65025) :
    (x * 257 + 32768) / 2 ^ 16 = roundOver255 x ∨
      ((x * 257 + 32768) / 2 ^ 16 + 1 = roundOver255 x ∧ x % 255 = 128 ∧ 33023 ≤ x) := by
  obtain ⟨q, r, hr, hqr⟩ : ∃ q r, r < 255 ∧ x + 127 = 255 * q + r :=
    ⟨(x + 127) / 255, (x + 127) % 255, Nat.mod_lt _ (by decide), (Nat.div_add_mod _ _).symm⟩
  have hround : roundOver255 x = q := by
    unfold roundOver255
    omega
  have hnumerator : x * 257 + 32768 + q = 65536 * q + 257 * r + 129 := by omega
  rw [hround]
  by_cases hr0 : r = 0
  · omega
  · omega

theorem pow_sixteen_mod_255 : ∀ c < 256, Nat.gcd c 255 = 1 → c ^ 16 % 255 = 1 :=
  forall_lt_256_of_pages (by decide)

/-- Where `c · a` is 128 modulo 255, `c` is a unit and `a` is `128 · c⁻¹`, with `c⁻¹ = c ^ 15`. -/
theorem eq_partner_of_mul_mod {c a : Nat} (hc : c < 256) (ha : a < 256) (h : c * a % 255 = 128) :
    a = c ^ 15 * 128 % 255 := by
  have hunit : Nat.gcd c 255 = 1 := by
    have hmod : Nat.gcd c 255 ∣ c * a % 255 :=
      (Nat.dvd_mod_iff (Nat.gcd_dvd_right c 255)).mpr ((Nat.gcd_dvd_left c 255).mul_right a)
    rw [h] at hmod
    exact Nat.eq_one_of_dvd_coprimes (by decide : Nat.Coprime 128 255) hmod (Nat.gcd_dvd_right c 255)
  have ha' : a ≠ 255 := by
    rintro rfl
    omega
  calc a = c ^ 16 * a % 255 := by rw [Nat.mul_mod, pow_sixteen_mod_255 c hc hunit]; omega
    _ = c ^ 15 * (c * a) % 255 := by ring_nf
    _ = c ^ 15 * 128 % 255 := by rw [Nat.mul_mod, h, ← Nat.mul_mod_mod]; simp

/-- The pairs at which the quotient falls short are listed: one evaluation for each `c`. -/
theorem partner_mem_premulShortfalls :
    ∀ c < 256, c * (c ^ 15 * 128 % 255) % 255 = 128 → 33023 ≤ c * (c ^ 15 * 128 % 255) →
      ∃ x ∈ premulShortfalls, x.1 = (c, c ^ 15 * 128 % 255) :=
  forall_lt_256_of_pages (by decide)

/-- Each listed pair falls short of the nearest integer by one. -/
theorem shortfall_add_one : ∀ x ∈ premulShortfalls, x.2 + 1 = roundOver255 (x.1.1 * x.1.2) := by
  decide

theorem mul_toNat_le (c a : Byte) : c.toNat * a.toNat ≤ 65025 :=
  Nat.mul_le_mul (Nat.le_of_lt_succ c.isLt) (Nat.le_of_lt_succ a.isLt)

/-- The rounding law of R174: one less than the nearest integer at the listed pairs, the nearest integer elsewhere. -/
theorem premulChannel_rounding (c a : Byte) :
    if ((c.toNat, a.toNat), (premulChannel c a).toNat) ∈ premulShortfalls
      then (premulChannel c a).toNat + 1 = roundOver255 (c.toNat * a.toNat)
      else (premulChannel c a).toNat = roundOver255 (c.toNat * a.toNat) := by
  split
  case isTrue hlisted => exact shortfall_add_one _ hlisted
  case isFalse hunlisted =>
    obtain hround | ⟨-, hmod, hlarge⟩ := premulQuotient_eq_round_or (mul_toNat_le c a)
    · rw [premulChannel_toNat, hround]
    · have hpartner := eq_partner_of_mul_mod c.isLt a.isLt hmod
      rw [hpartner] at hmod hlarge
      obtain ⟨x, hx, hpair⟩ := partner_mem_premulShortfalls _ c.isLt hmod hlarge
      rw [← hpartner] at hpair
      have hvalue := premulChannel_of_mem_premulShortfalls x hx
      simp only [hpair, BitVec.ofNat_toNat, BitVec.setWidth_eq] at hvalue
      rw [hvalue, ← hpair] at hunlisted
      exact absurd hx hunlisted

/-! The other laws of R174. -/

theorem premulChannel_comm (c a : Byte) : premulChannel c a = premulChannel a c := by
  rw [premulChannel, premulChannel, Nat.mul_comm c.toNat]

theorem premulChannel_mono {c c' a a' : Byte} (hc : c ≤ c') (ha : a ≤ a') :
    premulChannel c a ≤ premulChannel c' a' := by
  show (premulChannel c a).toNat ≤ (premulChannel c' a').toNat
  have hmul : c.toNat * a.toNat ≤ c'.toNat * a'.toNat := Nat.mul_le_mul hc ha
  rw [premulChannel_toNat, premulChannel_toNat]
  omega

/-- Settles O33: one lemma for each law; those in the second argument by symmetry. -/
theorem premulChannelLaws : Obligations.PremulChannelLaws := by
  unfold Obligations.PremulChannelLaws
  intro c a
  refine ⟨⟨premulProduct_div_le c a, premulChannel_toNat c a⟩, ⟨premulChannel_transparent c, ?_⟩, premulChannel_opaque c,
    ?_, premulChannel_comm c a, fun c' a' => premulChannel_mono, premulChannel_rounding c a⟩
  · rw [premulChannel_comm, premulChannel_transparent]
  · rw [premulChannel_comm, premulChannel_opaque]

end Sys2Proof.Machine

/-! ## The error of a round trip

`255` times the premultiplied colour is `c · a` but for a rounding error between -128 and 127. Divided by an alpha of 128
or more, that is an error of at most one level; below, the error depends on `c · a` modulo 255 and is found by evaluation,
but for the small alphas, where a colour as large as `127 / a` premultiplies to 0. -/

namespace Sys2Proof.Machine

/-- The colour that a round trip of colour `c` at alpha `a` gives, as a natural number. -/
def roundTripColour (c a : Nat) : Nat := 255 * ((c * a * 257 + 32768) / 2 ^ 16) / a

/-- Premultiplied colours are at most alpha. -/
theorem premulChannel_le_alpha (c a : Byte) : premulChannel c a ≤ a := by
  have hc : c ≤ 255#8 := Nat.le_of_lt_succ c.isLt
  calc premulChannel c a ≤ premulChannel 255#8 a := premulChannel_mono hc (le_refl a.toNat)
    _ = a := by rw [premulChannel_comm, premulChannel_opaque]

theorem unpremulChannel_premulChannel_toNat (c : Byte) {a : Byte} (ha : a ≠ 0#8) (clamp : Bool) :
    (unpremulChannel (premulChannel c a) a clamp).toNat = roundTripColour c.toNat a.toNat := by
  have hinput := clampInput_of_le clamp (premulChannel_le_alpha c a)
  have hle : clampInput (premulChannel c a) a clamp ≤ a.toNat := by
    rw [hinput]
    exact premulChannel_le_alpha c a
  rw [unpremulChannel_toNat_of_le hle, hinput, lookupDivide_eq_div ha (premulChannel c a).isLt, premulChannel_toNat,
    roundTripColour]

/-- The error in terms of the colour given. -/
theorem roundTripError_le_iff (c : Byte) {a : Byte} (ha : a ≠ 0#8) (clamp : Bool) (n : Nat) :
    roundTripError c a clamp ≤ n ↔
      roundTripColour c.toNat a.toNat ≤ c.toNat + n ∧ c.toNat ≤ roundTripColour c.toNat a.toNat + n := by
  rw [roundTripError, unpremulChannel_premulChannel_toNat c ha clamp]
  omega

/-- The rounding error of the premultiplication. -/
theorem premulQuotient_bounds {x : Nat} (hx : x ≤ 65025) :
    255 * ((x * 257 + 32768) / 2 ^ 16) ≤ x + 127 ∧ x ≤ 255 * ((x * 257 + 32768) / 2 ^ 16) + 128 := by
  omega

/-- The colour given, between its bounds: an error of `-128` to `127`, divided by alpha. -/
theorem roundTripColour_bounds {c a : Nat} (hc : c < 256) (ha : 0 < a) (ha' : a < 256) :
    roundTripColour c a * a ≤ c * a + 127 ∧ c * a < (roundTripColour c a + 1) * a + 128 := by
  obtain ⟨hhigh, hlow⟩ := premulQuotient_bounds (Nat.mul_le_mul (Nat.le_of_lt_succ hc) (Nat.le_of_lt_succ ha'))
  have hfloor := Nat.div_mul_le_self (255 * ((c * a * 257 + 32768) / 2 ^ 16)) a
  have hceil := (Nat.div_lt_iff_lt_mul ha).mp (Nat.lt_succ_self (255 * ((c * a * 257 + 32768) / 2 ^ 16) / a))
  rw [Nat.succ_eq_add_one] at hceil
  unfold roundTripColour
  omega

/-- An alpha of 128 or more absorbs the rounding error but for one level. -/
theorem roundTripColour_of_large_alpha {c a : Nat} (hc : c < 256) (ha : 128 ≤ a) (ha' : a < 256) :
    roundTripColour c a ≤ c + 1 ∧ c ≤ roundTripColour c a + 1 := by
  obtain ⟨hhigh, hlow⟩ := roundTripColour_bounds hc (by omega) ha'
  constructor
  · by_contra! hlt
    have hmul : (c + 2) * a ≤ roundTripColour c a * a := Nat.mul_le_mul_right a hlt
    rw [Nat.add_mul] at hmul
    omega
  · by_contra! hlt
    have hmul : (roundTripColour c a + 1 + 1) * a ≤ c * a := Nat.mul_le_mul_right a hlt
    rw [Nat.add_mul _ 1 a] at hmul
    omega

/-- The seven smaller alphas of R177's list, by evaluation. -/
theorem roundTripColour_of_listed_alpha :
    ∀ a ∈ [85, 102, 119, 120, 125, 126, 127], ∀ c < 256,
      roundTripColour c a ≤ c + 1 ∧ c ≤ roundTripColour c a + 1 := by
  have hpages : ∀ a ∈ [85, 102, 119, 120, 125, 126, 127], ∀ page < 8, ∀ j < 32,
      roundTripColour (32 * page + j) a ≤ 32 * page + j + 1 ∧
        32 * page + j ≤ roundTripColour (32 * page + j) a + 1 := by
    decide
  exact fun a ha => forall_lt_256_of_pages (hpages a ha)

/-- At alphas up to 63 the colour `127 / a`, at least 2, premultiplies to 0. -/
theorem roundTripColour_of_small_alpha (a : Nat) : roundTripColour (127 / a) a = 0 := by
  have hproduct := Nat.div_mul_le_self 127 a
  have hzero : (127 / a * a * 257 + 32768) / 2 ^ 16 = 0 := by omega
  rw [roundTripColour, hzero, Nat.mul_zero, Nat.zero_div]

/-- Between the small alphas and 125, each alpha that is not listed has a colour with an error of 2 or more. -/
theorem exists_error_of_unlisted_alpha :
    ∀ a < 125, 64 ≤ a → ¬ (a = 85 ∨ a = 102 ∨ a = 119 ∨ a = 120) →
      ∃ c ∈ [253, 4, 251, 6, 73, 249, 24, 57, 247, 12, 14, 20, 21],
        ¬ (roundTripColour c a ≤ c + 1 ∧ c ≤ roundTripColour c a + 1) := by
  decide

/-- The alphas at which every colour's error is at most 1 (R177). -/
theorem roundTripColour_error_le_one_iff {a : Nat} (ha : 0 < a) (ha' : a < 256) :
    (∀ c < 256, roundTripColour c a ≤ c + 1 ∧ c ≤ roundTripColour c a + 1) ↔
      125 ≤ a ∨ a = 85 ∨ a = 102 ∨ a = 119 ∨ a = 120 := by
  constructor
  · intro h
    by_contra! hunlisted
    obtain ⟨hlt, h85, h102, h119, h120⟩ := hunlisted
    by_cases hsmall : a ≤ 63
    · have hcolour : 2 ≤ 127 / a := (Nat.le_div_iff_mul_le ha).mpr (by omega)
      have hbound : 127 / a ≤ 127 := Nat.div_le_self 127 a
      obtain ⟨-, herror⟩ := h (127 / a) (by omega)
      rw [roundTripColour_of_small_alpha] at herror
      omega
    · obtain ⟨c, hc, herror⟩ := exists_error_of_unlisted_alpha a hlt (by omega) (by omega)
      have hbytes : ∀ c ∈ [253, 4, 251, 6, 73, 249, 24, 57, 247, 12, 14, 20, 21], c < 256 := by decide
      exact herror (h c (hbytes c hc))
  · intro hlisted c hc
    by_cases hlarge : 128 ≤ a
    · exact roundTripColour_of_large_alpha hc hlarge ha'
    · refine roundTripColour_of_listed_alpha a ?_ c hc
      simp only [List.mem_cons, List.not_mem_nil, or_false]
      omega

/-- The error at any nonzero alpha: at most 127 levels, as at alpha 1, where nothing is divided. -/
theorem roundTripColour_error_le {c a : Nat} (hc : c < 256) (ha : 0 < a) (ha' : a < 256) :
    roundTripColour c a ≤ c + 127 ∧ c ≤ roundTripColour c a + 127 := by
  obtain ⟨hhigh, hlow⟩ := roundTripColour_bounds hc ha ha'
  constructor
  · by_contra! hlt
    have hmul : (c + 128) * a ≤ roundTripColour c a * a := Nat.mul_le_mul_right a hlt
    rw [Nat.add_mul] at hmul
    omega
  · obtain rfl | hone := Nat.eq_or_lt_of_le ha
    · have hundivided : roundTripColour c 1 = 255 * ((c * 257 + 32768) / 2 ^ 16) := by
        rw [roundTripColour, Nat.mul_one, Nat.div_one]
      show c ≤ roundTripColour c 1 + 127
      rw [hundivided]
      omega
    · by_contra! hlt
      have hmul : (roundTripColour c a + 1 + 127) * a ≤ c * a := Nat.mul_le_mul_right a hlt
      rw [Nat.add_mul _ 127 a] at hmul
      omega

end Sys2Proof.Machine

namespace Sys2Proof

open Machine (alpha_unpremulPixel alpha_premulPixel premulChannel_opaque unpremulChannel_opaque roundTripError_le_iff
  roundTripColour_error_le_one_iff roundTripColour_error_le)

/-- Settles O37: alpha by the pixel functions, the errors by those of `roundTripColour`. -/
theorem roundTripError : Obligations.RoundTripError := by
  unfold Obligations.RoundTripError
  refine ⟨fun A p clamp => ?_, fun a clamp ha => ?_, fun c clamp => ?_, fun c a clamp ha => ?_, by decide⟩
  · rw [alpha_unpremulPixel, alpha_premulPixel]
  · have hpos : 0 < a.toNat := by bv_omega
    rw [← roundTripColour_error_le_one_iff hpos a.isLt]
    simp only [roundTripError_le_iff _ ha]
    constructor
    · intro h c hc
      simpa [Nat.mod_eq_of_lt hc] using h (BitVec.ofNat 8 c)
    · exact fun h c => h c.toNat c.isLt
  · rw [Machine.roundTripError, premulChannel_opaque, unpremulChannel_opaque]
    omega
  · have hpos : 0 < a.toNat := by bv_omega
    exact (roundTripError_le_iff c ha clamp 127).mpr (roundTripColour_error_le c.isLt hpos a.isLt)

end Sys2Proof
